-- ==== Sys2Proof/Word.lean ====
section
/-! DEFINITION. The block's data types (00_scope.md R7): bytes, chip addresses, 24-bit words, byte lists, and the
non-negative rationals of frequencies and symbol rates. -/

namespace Sys2Proof

/-- `Byte` (R7): 8 bits. -/
abbrev Byte := BitVec 8

/-- `Addr6` (R7): a chip register address, 6 bits. -/
abbrev Addr6 := BitVec 6

/-- `Word24` (R7): the frequency word. -/
abbrev Word24 := BitVec 24

/-- `Bytes` (R7): a finite list of bytes. -/
abbrev Bytes := List Byte

/-- `Hz` (R7, R11): a non-negative exact rational. A negative frequency cannot be written down. -/
structure Hz where
  val    : Rat
  nonneg : 0 ≤ val
  deriving DecidableEq, Repr

/-- `Baud` (R7, R11): a non-negative exact rational. -/
structure Baud where
  val    : Rat
  nonneg : 0 ≤ val
  deriving DecidableEq, Repr

/-- `dBm` (R7): an exact rational. -/
abbrev DBm := Rat

/-- `Timeout` (60_exceptions.md R372): opaque to the block, passed on unchanged. A token that no rule reads
(DESIGN CHOICE, log entry 9). -/
abbrev Timeout := Nat

end Sys2Proof
end

