-- ==== Sys2Proof/Syntax.lean ====
section
/-! DEFINITION. The names of the chip's registers and strobes, the closed enumerations of the register fields, the
instruction type (one constructor per row of opcode_table.json), and the host call. -/

namespace Sys2Proof

/-- The configuration registers, in address order 0x00 to 0x2E (20_memory.md R52). -/
inductive ConfigReg
  | iocfg2 | iocfg1 | iocfg0 | fifothr | sync1 | sync0 | pktlen | pktctrl1
  | pktctrl0 | addr | channr | fsctrl1 | fsctrl0 | freq2 | freq1 | freq0
  | mdmcfg4 | mdmcfg3 | mdmcfg2 | mdmcfg1 | mdmcfg0 | deviatn | mcsm2 | mcsm1
  | mcsm0 | foccfg | bscfg | agcctrl2 | agcctrl1 | agcctrl0 | worevt1 | worevt0
  | worctrl | frend1 | frend0 | fscal3 | fscal2 | fscal1 | fscal0 | rcctrl1
  | rcctrl0 | fstest | ptest | agctest | test2 | test1 | test0
  deriving DecidableEq, Repr

/-- The status registers (20_memory.md R53): one of the two disjoint enumerated spaces of R51. -/
inductive StatusReg
  | partnum | version | freqest | lqi | rssi | marcstate | wortime1 | wortime0
  | pktstatus | vcoVcDac | txbytes | rxbytes | rcctrl1Status | rcctrl0Status
  deriving DecidableEq, Repr

/-- The command strobes (20_memory.md R54): the other of the two disjoint enumerated spaces of R51. -/
inductive StrobeCmd
  | sres | sfstxon | sxoff | scal | srx | stx | sidle | swor | spwd | sfrx | sftx | sworrst | snop
  deriving DecidableEq, Repr

/-- Modulation format (41_register_fields.md R194). -/
inductive ModulationFormat
  | fsk2 | gfsk | askOok | fsk4 | msk
  deriving DecidableEq, Repr

/-- Sync mode (41_register_fields.md R195). -/
inductive SyncMode
  | noPreambleAndSyncWord | transmit16Match15Bits | transmit16Match16Bits | transmit32Match30Bits
  deriving DecidableEq, Repr

/-- Packet-length mode (41_register_fields.md R196). -/
inductive PacketLengthMode
  | fixed | variable
  deriving DecidableEq, Repr

/-- Transceive mode (41_register_fields.md R193). -/
inductive TransceiveMode
  | fifo | synchronousSerial | randomTransmission | asynchronousSerial
  deriving DecidableEq, Repr

/-- MARCSTATE names (43_lifecycle.md R288). -/
inductive MarcState
  | sleep | idle | xoff | vcoonMc | regonMc | mancal | vcoon | regon
  | startcal | bwboost | fsLock | ifadcon | endcal | rx | rxEnd | rxRst
  | txrxSwitch | rxfifoOverflow | fstxon | tx | txEnd | rxtxSwitch | txfifoUnderflow
  deriving DecidableEq, Repr

/-- The operations of the block, one constructor per row of opcode_table.json, with the operands its rule gives.
A setter's numeric operands are integers, because its rule states the range check itself (00_scope.md R7). -/
inductive Instr
  -- 40_bus_codec.md R122 to R128
  | rd1 (a : Addr6)
  | rdb (a : Addr6) (n : Nat)
  | rds (a : Addr6)
  | stb (a : Addr6)
  | wrb (a : Addr6) (v : Bytes)
  | resetOp
  -- the thirteen strobes, R129 to R141
  | stbSres | stbSfstxon | stbSxoff | stbScal | stbSrx | stbStx | stbSidle
  | stbSwor | stbSpwd | stbSfrx | stbSftx | stbSworrst | stbSnop
  -- the fourteen status reads, R142 to R155
  | rdsPartnum | rdsVersion | rdsFreqest | rdsLqi | rdsRssi | rdsMarcstate | rdsWortime1 | rdsWortime0
  | rdsPktstatus | rdsVcoVcDac | rdsTxbytes | rdsRxbytes | rdsRcctrl1Status | rdsRcctrl0Status
  -- PATABLE and FIFO access, R156 to R159
  | rdbPatable (n : Nat)
  | wrbPatable (v : Bytes)
  | rdbRxFifo (n : Nat)
  | wrbTxFifo (v : Bytes)
  -- 41_register_fields.md R200 to R235
  | getFrequencyWord
  | setFrequencyWord (w : Int)
  | getSymbolRateFP
  | setSymbolRateFP (m e : Int)
  | getFilterBandwidthFP
  | setFilterBandwidthFP (m e : Int)
  | getModulationFormat
  | setModulationFormat (f : ModulationFormat)
  | getSyncMode
  | setSyncMode (mode : SyncMode) (cs : Option Bool)
  | getSyncWord
  | setSyncWord (v : Bytes)
  | getPreambleLength
  | setPreambleLength (nbytes : Int)
  | getPacketLength
  | setPacketLength (n : Int)
  | getPacketLengthMode
  | setPacketLengthMode (mode : PacketLengthMode)
  | getChecksumEnabled
  | enableChecksum
  | disableChecksum
  | getDataWhiteningEnabled
  | enableDataWhitening
  | disableDataWhitening
  | getTransceiveMode
  | setTransceiveMode (t : TransceiveMode)
  | getManchesterEnabled
  | enableManchester
  | disableManchester
  | getPAIndex
  | setPAIndex (i : Int)
  | getPatable
  | getOutputPower
  | setOutputPower (values : List Int)
  | getCalibrationOnWake
  | setCalibrationOnWake (v : Int)
  -- 42_field_conversions.md R260 to R265
  | setBaseFrequencyHz (hz : Hz)
  | getBaseFrequencyHz
  | setSymbolRateBaud (baud : Baud)
  | getSymbolRateBaud
  | getFilterBandwidthHz
  -- 43_lifecycle.md R280, R286, R287
  | openOp
  | closeOp
  | getMarcstate
  -- 44_packet_engine.md R311, R320, R330, R331
  | transmit (payload : Bytes)
  | receive (t : Timeout)
  | asyncTxBegin
  | asyncTxEnd
  deriving DecidableEq, Repr

/-- What the host hands over (10_state.md R27): an operation with its arguments, or a raw transaction given by its
frame, header byte and data (30_encoding.md R80, R91). A raw frame is how a form outside R89 can be asked for at
all (R90; log entry 5). -/
inductive HostCall
  | op  (i : Instr)
  | raw (header : Byte) (data : Bytes)
  deriving DecidableEq, Repr

end Sys2Proof
end

