-- ==== Sys2Proof/WellFormed.lean ====
section
/-! DEFINITION. Well-formed instructions: the operand domains the transaction rules state (40_bus_codec.md R122 to
R127, R156 to R159). A sequencer operation has no such check: every value of its operands' types is accepted, and a
range its rule checks raises ConfigurationError (00_scope.md R7). -/

namespace Sys2Proof

/-- A configuration burst of `n` bytes from `a` stays in 0x00..0x2E (30_encoding.md R89). -/
def configRange (a : Addr6) (n : Nat) : Bool := decide (1 ≤ n ∧ a.toNat + n - 1 ≤ 0x2E)

/-- A status address (20_memory.md R53). -/
def isStatusAddr (a : Addr6) : Bool := decide (0x30 ≤ a.toNat ∧ a.toNat ≤ 0x3D)

/-- A strobe address (20_memory.md R54): 0x37 is none. -/
def isStrobeAddr (a : Addr6) : Bool := decide (0x30 ≤ a.toNat ∧ a.toNat ≤ 0x3D ∧ a.toNat ≠ 0x37)

/-- The operand domain of each transaction rule. -/
def Instr.wf : Instr → Bool
  | .rd1 a => decide (a.toNat ≤ 0x2E)
  | .rdb a n => configRange a n
  | .rds a => isStatusAddr a
  | .stb a => isStrobeAddr a
  | .wrb a v => configRange a v.length
  | .rdbPatable n => decide (1 ≤ n ∧ n ≤ 8)
  | .wrbPatable v => decide (1 ≤ v.length ∧ v.length ≤ 8)
  | .rdbRxFifo n => decide (1 ≤ n)
  | .wrbTxFifo v => decide (1 ≤ v.length)
  | _ => true

end Sys2Proof
end

