-- ==== Sys2Proof/Decode.lean ====
section
/-! DEFINITION. The encoding (30_encoding.md): register addresses (20_memory.md R52 to R54), header bytes, frames, the
legal forms, the decoder (total, rejecting by name), and the encoder written from the same tables. -/

namespace Sys2Proof

/-! ### Address tables -/

/-- Address of a configuration register (20_memory.md R52). -/
def ConfigReg.address : ConfigReg → Addr6
  | .iocfg2 => 0x00 | .iocfg1 => 0x01 | .iocfg0 => 0x02 | .fifothr => 0x03
  | .sync1 => 0x04 | .sync0 => 0x05 | .pktlen => 0x06 | .pktctrl1 => 0x07
  | .pktctrl0 => 0x08 | .addr => 0x09 | .channr => 0x0A | .fsctrl1 => 0x0B
  | .fsctrl0 => 0x0C | .freq2 => 0x0D | .freq1 => 0x0E | .freq0 => 0x0F
  | .mdmcfg4 => 0x10 | .mdmcfg3 => 0x11 | .mdmcfg2 => 0x12 | .mdmcfg1 => 0x13
  | .mdmcfg0 => 0x14 | .deviatn => 0x15 | .mcsm2 => 0x16 | .mcsm1 => 0x17
  | .mcsm0 => 0x18 | .foccfg => 0x19 | .bscfg => 0x1A | .agcctrl2 => 0x1B
  | .agcctrl1 => 0x1C | .agcctrl0 => 0x1D | .worevt1 => 0x1E | .worevt0 => 0x1F
  | .worctrl => 0x20 | .frend1 => 0x21 | .frend0 => 0x22 | .fscal3 => 0x23
  | .fscal2 => 0x24 | .fscal1 => 0x25 | .fscal0 => 0x26 | .rcctrl1 => 0x27
  | .rcctrl0 => 0x28 | .fstest => 0x29 | .ptest => 0x2A | .agctest => 0x2B
  | .test2 => 0x2C | .test1 => 0x2D | .test0 => 0x2E

/-- Address of a status register (20_memory.md R53). -/
def StatusReg.address : StatusReg → Addr6
  | .partnum => 0x30 | .version => 0x31 | .freqest => 0x32 | .lqi => 0x33
  | .rssi => 0x34 | .marcstate => 0x35 | .wortime1 => 0x36 | .wortime0 => 0x37
  | .pktstatus => 0x38 | .vcoVcDac => 0x39 | .txbytes => 0x3A | .rxbytes => 0x3B
  | .rcctrl1Status => 0x3C | .rcctrl0Status => 0x3D

/-- Address of a command strobe (20_memory.md R54): none at 0x37. -/
def StrobeCmd.address : StrobeCmd → Addr6
  | .sres => 0x30 | .sfstxon => 0x31 | .sxoff => 0x32 | .scal => 0x33
  | .srx => 0x34 | .stx => 0x35 | .sidle => 0x36 | .swor => 0x38
  | .spwd => 0x39 | .sfrx => 0x3A | .sftx => 0x3B | .sworrst => 0x3C
  | .snop => 0x3D

/-- The status register at an address (20_memory.md R53). -/
def StatusReg.ofAddr? (a : Addr6) : Option StatusReg :=
  match a.toNat with
  | 0x30 => some .partnum | 0x31 => some .version | 0x32 => some .freqest | 0x33 => some .lqi
  | 0x34 => some .rssi | 0x35 => some .marcstate | 0x36 => some .wortime1 | 0x37 => some .wortime0
  | 0x38 => some .pktstatus | 0x39 => some .vcoVcDac | 0x3A => some .txbytes | 0x3B => some .rxbytes
  | 0x3C => some .rcctrl1Status | 0x3D => some .rcctrl0Status
  | _ => none

/-- The strobe at an address (20_memory.md R54). -/
def StrobeCmd.ofAddr? (a : Addr6) : Option StrobeCmd :=
  match a.toNat with
  | 0x30 => some .sres | 0x31 => some .sfstxon | 0x32 => some .sxoff | 0x33 => some .scal
  | 0x34 => some .srx | 0x35 => some .stx | 0x36 => some .sidle | 0x38 => some .swor
  | 0x39 => some .spwd | 0x3A => some .sfrx | 0x3B => some .sftx | 0x3C => some .sworrst
  | 0x3D => some .snop
  | _ => none

/-- The instruction that reads a status register (40_bus_codec.md R142 to R155). -/
def StatusReg.instr : StatusReg → Instr
  | .partnum => .rdsPartnum | .version => .rdsVersion | .freqest => .rdsFreqest | .lqi => .rdsLqi
  | .rssi => .rdsRssi | .marcstate => .rdsMarcstate | .wortime1 => .rdsWortime1 | .wortime0 => .rdsWortime0
  | .pktstatus => .rdsPktstatus | .vcoVcDac => .rdsVcoVcDac | .txbytes => .rdsTxbytes | .rxbytes => .rdsRxbytes
  | .rcctrl1Status => .rdsRcctrl1Status | .rcctrl0Status => .rdsRcctrl0Status

/-- The instruction that issues a strobe (40_bus_codec.md R129 to R141). -/
def StrobeCmd.instr : StrobeCmd → Instr
  | .sres => .stbSres | .sfstxon => .stbSfstxon | .sxoff => .stbSxoff | .scal => .stbScal
  | .srx => .stbSrx | .stx => .stbStx | .sidle => .stbSidle | .swor => .stbSwor
  | .spwd => .stbSpwd | .sfrx => .stbSfrx | .sftx => .stbSftx | .sworrst => .stbSworrst
  | .snop => .stbSnop

/-- Address of PATABLE (20_memory.md R55). -/
def patableAddr : Addr6 := 0x3E

/-- Address of the FIFO (20_memory.md R56). -/
def fifoAddr : Addr6 := 0x3F

/-- Number of PATABLE entries the forms admit (20_memory.md R55; 30_encoding.md R89). -/
def patableEntries : Nat := 8

/-! ### Header byte -/

/-- The four mode values of the header (30_encoding.md R80). -/
inductive Mode
  | writeSingle | writeBurst | readSingle | readBurst
  deriving DecidableEq, Repr

/-- Mode bits (30_encoding.md R80). -/
def modeBits : Mode → Byte
  | .writeSingle => 0x00
  | .writeBurst => 0x40
  | .readSingle => 0x80
  | .readBurst => 0xC0

/-- The header byte is `address | mode_bits` (30_encoding.md R80). -/
def header (m : Mode) (a : Addr6) : Byte := a.zeroExtend 8 ||| modeBits m

/-- The mode named by the R/W bit h[7] and the burst bit h[6] (30_encoding.md R81, R82). -/
def headerMode (h : Byte) : Mode :=
  match h.getLsbD 7, h.getLsbD 6 with
  | false, false => .writeSingle
  | false, true => .writeBurst
  | true, false => .readSingle
  | true, true => .readBurst

/-- The address h[5:0] (30_encoding.md R81, R82). -/
def headerAddr (h : Byte) : Addr6 := h.setWidth 6

/-! ### Frames -/

/-- Transmitted frame of ReadSingle (30_encoding.md R83). -/
def frameReadSingle (a : Addr6) : Bytes := [header .readSingle a, 0x00]

/-- Transmitted frame of a burst read of `n` bytes (30_encoding.md R83); ReadStatus is the one of one byte. -/
def frameReadBurst (a : Addr6) (n : Nat) : Bytes := header .readBurst a :: List.replicate n 0x00

/-- Transmitted frame of ReadStatus (30_encoding.md R83). -/
def frameReadStatus (a : Addr6) : Bytes := [header .readBurst a, 0x00]

/-- Transmitted frame of Strobe (30_encoding.md R83). -/
def frameStrobe (a : Addr6) : Bytes := [header .writeSingle a]

/-- Transmitted frame of WriteBurst (30_encoding.md R83). -/
def frameWriteBurst (a : Addr6) (v : Bytes) : Bytes := header .writeBurst a :: v

/-! ### Forms -/

/-- A transaction form: the mode and address of the header and the number of data bytes (30_encoding.md R91). -/
structure Form where
  mode : Mode
  addr : Addr6
  n    : Nat
  deriving DecidableEq, Repr

/-- `decode(tx) = (RW, B, A, n = len(tx) - 1)` (30_encoding.md R91). -/
def formOf (h : Byte) (data : Bytes) : Form := ⟨headerMode h, headerAddr h, data.length⟩

/-- The rows of 30_encoding.md R89: the only forms the block issues. -/
def legalForm (f : Form) : Bool :=
  let a := f.addr.toNat
  match f.mode with
  | .readSingle => decide (a ≤ 0x2E ∧ f.n = 1)
  | .readBurst =>
      decide (a ≤ 0x2E ∧ 1 ≤ f.n ∧ a + f.n - 1 ≤ 0x2E)
        || decide (0x30 ≤ a ∧ a ≤ 0x3D ∧ f.n = 1)
        || decide (a = 0x3E ∧ 1 ≤ f.n ∧ f.n ≤ patableEntries)
        || decide (a = 0x3F ∧ 1 ≤ f.n)
  | .writeSingle => decide (0x30 ≤ a ∧ a ≤ 0x3D ∧ a ≠ 0x37 ∧ f.n = 0)
  | .writeBurst =>
      decide (a ≤ 0x2E ∧ 1 ≤ f.n ∧ a + f.n - 1 ≤ 0x2E)
        || decide (a = 0x3E ∧ 1 ≤ f.n ∧ f.n ≤ patableEntries)
        || decide (a = 0x3F ∧ 1 ≤ f.n)

/-- A frame whose form is a row of R89. A frame without a header byte has no form. -/
def legalFrame : Bytes → Bool
  | [] => false
  | h :: data => legalForm (formOf h data)

/-- Why a frame is no instruction: the clauses of 30_encoding.md R90. -/
inductive DecodeError
  | noHeader              -- an empty byte list holds no header byte (R80)
  | statusReadSingle      -- R90(a): READ_SINGLE at 0x30..0x3D
  | singleReadNoRegister  -- R90(b): READ_SINGLE at 0x2F, 0x3E or 0x3F
  | singleReadLength      -- READ_SINGLE of a configuration register with n other than 1
  | singleWriteNoStrobe   -- R90(c): WRITE_SINGLE at an address that is no strobe
  | dataAfterStrobe       -- R90(g): a strobe with data bytes
  | burstWriteNoRegister  -- R90(d): WRITE_BURST at 0x2F..0x3D
  | burstReadNoRegister   -- R90(e): READ_BURST at 0x2F
  | statusReadLength      -- R90(f), (g): a status read with n other than 1
  | emptyBurst            -- R90(f): a burst with n = 0
  | burstPastConfig       -- R90(f): a configuration burst past 0x2E
  | patableTooLong        -- R90(f): a PATABLE burst with n over 8
  deriving DecidableEq, Repr

/-- A burst that is no row of R89 at a configuration, PATABLE or FIFO address breaks one of R90(f)'s three bounds. -/
def burstError (f : Form) : DecodeError :=
  if f.n = 0 then .emptyBurst
  else if f.addr = patableAddr then .patableTooLong
  else .burstPastConfig

/-- The clause of R90 that refuses a form which is no row of R89. -/
def formError (f : Form) : DecodeError :=
  let a := f.addr.toNat
  match f.mode with
  | .readSingle =>
      if 0x30 ≤ a ∧ a ≤ 0x3D then .statusReadSingle
      else if 0x2F ≤ a then .singleReadNoRegister
      else .singleReadLength
  | .writeSingle =>
      if 0x30 ≤ a ∧ a ≤ 0x3D ∧ a ≠ 0x37 then .dataAfterStrobe else .singleWriteNoStrobe
  | .writeBurst =>
      if 0x2F ≤ a ∧ a ≤ 0x3D then .burstWriteNoRegister else burstError f
  | .readBurst =>
      if a = 0x2F then .burstReadNoRegister
      else if 0x30 ≤ a ∧ a ≤ 0x3D then .statusReadLength
      else burstError f

/-- The instruction of a legal form with its data bytes. Where two rows of the opcode table share the words, the
decoder reads the row that names the register or strobe (log entry 6). -/
def legalInstr (f : Form) (data : Bytes) : Option Instr :=
  match f.mode with
  | .readSingle => some (.rd1 f.addr)
  | .writeSingle => (StrobeCmd.ofAddr? f.addr).map StrobeCmd.instr
  | .writeBurst =>
      if f.addr = patableAddr then some (.wrbPatable data)
      else if f.addr = fifoAddr then some (.wrbTxFifo data)
      else some (.wrb f.addr data)
  | .readBurst =>
      if f.addr = patableAddr then some (.rdbPatable f.n)
      else if f.addr = fifoAddr then some (.rdbRxFifo f.n)
      else match StatusReg.ofAddr? f.addr with
        | some r => some r.instr
        | none => some (.rdb f.addr f.n)

/-- The decoder: total on any bytes, rejecting by name (30_encoding.md R82, R89 to R91). The filler bytes of a read
frame are not looked at (R91; log entry 5). -/
def decode : Bytes → Except DecodeError Instr
  | [] => .error .noHeader
  | h :: data =>
      let f := formOf h data
      if legalForm f then
        match legalInstr f data with
        | some i => .ok i
        | none => .error (formError f)
      else .error (formError f)

/-- What a host call runs: an operation as handed over, a raw frame by the decoder. -/
def decodeCall : HostCall → Except DecodeError Instr
  | .op i => .ok i
  | .raw h data => decode (h :: data)

/-! ### Encoder -/

/-- The transmitted frame of a transaction (30_encoding.md R83, R95 to R97). A sequencer operation has no words of its
own (R94; opcode_table.json gives it no match). -/
def encode : Instr → Option Bytes
  | .rd1 a => some (frameReadSingle a)
  | .rdb a n => some (frameReadBurst a n)
  | .rds a => some (frameReadStatus a)
  | .stb a => some (frameStrobe a)
  | .wrb a v => some (frameWriteBurst a v)
  | .resetOp => some (frameStrobe (StrobeCmd.address .sres))
  | .stbSres => some (frameStrobe (StrobeCmd.address .sres))
  | .stbSfstxon => some (frameStrobe (StrobeCmd.address .sfstxon))
  | .stbSxoff => some (frameStrobe (StrobeCmd.address .sxoff))
  | .stbScal => some (frameStrobe (StrobeCmd.address .scal))
  | .stbSrx => some (frameStrobe (StrobeCmd.address .srx))
  | .stbStx => some (frameStrobe (StrobeCmd.address .stx))
  | .stbSidle => some (frameStrobe (StrobeCmd.address .sidle))
  | .stbSwor => some (frameStrobe (StrobeCmd.address .swor))
  | .stbSpwd => some (frameStrobe (StrobeCmd.address .spwd))
  | .stbSfrx => some (frameStrobe (StrobeCmd.address .sfrx))
  | .stbSftx => some (frameStrobe (StrobeCmd.address .sftx))
  | .stbSworrst => some (frameStrobe (StrobeCmd.address .sworrst))
  | .stbSnop => some (frameStrobe (StrobeCmd.address .snop))
  | .rdsPartnum => some (frameReadStatus (StatusReg.address .partnum))
  | .rdsVersion => some (frameReadStatus (StatusReg.address .version))
  | .rdsFreqest => some (frameReadStatus (StatusReg.address .freqest))
  | .rdsLqi => some (frameReadStatus (StatusReg.address .lqi))
  | .rdsRssi => some (frameReadStatus (StatusReg.address .rssi))
  | .rdsMarcstate => some (frameReadStatus (StatusReg.address .marcstate))
  | .rdsWortime1 => some (frameReadStatus (StatusReg.address .wortime1))
  | .rdsWortime0 => some (frameReadStatus (StatusReg.address .wortime0))
  | .rdsPktstatus => some (frameReadStatus (StatusReg.address .pktstatus))
  | .rdsVcoVcDac => some (frameReadStatus (StatusReg.address .vcoVcDac))
  | .rdsTxbytes => some (frameReadStatus (StatusReg.address .txbytes))
  | .rdsRxbytes => some (frameReadStatus (StatusReg.address .rxbytes))
  | .rdsRcctrl1Status => some (frameReadStatus (StatusReg.address .rcctrl1Status))
  | .rdsRcctrl0Status => some (frameReadStatus (StatusReg.address .rcctrl0Status))
  | .rdbPatable n => some (frameReadBurst patableAddr n)
  | .wrbPatable v => some (frameWriteBurst patableAddr v)
  | .rdbRxFifo n => some (frameReadBurst fifoAddr n)
  | .wrbTxFifo v => some (frameWriteBurst fifoAddr v)
  | _ => none

/-- The row the decoder reads for an instruction's words: the named row for the two generic spellings and for `Reset`,
which is exactly `Strobe(0x30)` (40_bus_codec.md R128; log entry 6). Every other instruction is its own. -/
def canonical : Instr → Instr
  | .rds a => match StatusReg.ofAddr? a with
      | some r => r.instr
      | none => .rds a
  | .stb a => match StrobeCmd.ofAddr? a with
      | some c => c.instr
      | none => .stb a
  | .resetOp => .stbSres
  | i => i

/-! ### Words of the opcode table -/

/-- The bytes of `w` above its first, up to `k` of them, least significant first. -/
def wordBytes : Nat → Nat → Bytes
  | 0, _ => []
  | k + 1, w => BitVec.ofNat 8 w :: wordBytes k (w / 256)

/-- The frame of a table word: the header is bits 7:0, a later byte's bits count on from there. The table gives a row
its header alone; the operand bytes are then zeros, and since a frame's length is no part of its header (R91), the
shortest frame of the header's mode is taken: no data byte for WRITE_SINGLE, one zero byte otherwise (log entry 6). -/
def wordFrame (nbits w : Nat) : Byte × Bytes :=
  let h : Byte := BitVec.ofNat 8 w
  let data := wordBytes (nbits / 8 - 1) (w / 256)
  match data, headerMode h with
  | [], .writeSingle => (h, [])
  | [], _ => (h, [0x00])
  | _, _ => (h, data)

/-- The instruction the decoder reads from a table word. -/
def decodeTableWord (nbits w : Nat) : Option Instr :=
  match decode ((wordFrame nbits w).1 :: (wordFrame nbits w).2) with
  | .ok i => some i
  | .error _ => none

end Sys2Proof
end

