-- ==== Sys2Proof/Machine/Trace.lean ====
section
/-! DEFINITION. What an operation leaves behind: results, error records, refusals, warnings and the events of the
trace (00_scope.md R12; 10_state.md R24; 60_exceptions.md R350 to R357). -/

namespace Sys2Proof.Machine

/-- The block's lifecycle states (10_state.md R22, R25). -/
inductive Life
  | closed | ready | asyncTx | faulted
  deriving DecidableEq, Repr

/-- What a getter of an enumerated field returns (41_register_fields.md R199). -/
inductive Reading (α : Type)
  | known   (name : α)
  | unknown (code : Nat)
  deriving DecidableEq, Repr

/-- A received packet (44_packet_engine.md R322). -/
structure ReceivedPacket where
  payload              : Bytes
  rssiIndex            : Byte
  checksumValid        : Bool
  linkQualityIndicator : BitVec 7
  deriving DecidableEq, Repr

/-- The results `v` of `Ok(v)`, one constructor per result type of the accessor rules. -/
inductive Value
  | unit
  | byte              (b : Byte)
  | bytes             (v : Bytes)
  | word24            (w : Word24)
  | symbolRateFP      (m : Byte) (e : Nat)
  | filterBandwidthFP (m e : Nat)
  | modulationFormat  (m : Reading ModulationFormat)
  | syncMode          (m : Reading SyncMode) (cs : Bool)
  | preambleLength    (nbytes : Nat)
  | packetLengthMode  (m : Reading PacketLengthMode)
  | transceiveMode    (t : Reading TransceiveMode)
  | flag              (b : Bool)
  | field             (v : Nat)
  | hz                (q : Hz)
  | baud              (q : Baud)
  | marcstate         (raw : Byte) (state : Reading MarcState)
  | packet            (p : ReceivedPacket)
  | noPacket
  deriving DecidableEq, Repr

/-- The error classes (60_exceptions.md R351). The last is reserved and never raised (43_lifecycle.md R290). -/
inductive ErrorClass
  | protocolError | configurationError | deviceIdentityError | stateError | lockContentionError
  deriving DecidableEq, Repr

/-- The error kinds (60_exceptions.md R352 to R355). -/
inductive ErrorKind
  -- ConfigurationError, R352
  | preambleLength | syncWordLength | packetLength | patableLength | patableValue | paIndex
  | symbolRateExponent | symbolRateNonpositive | frequencyRange | fieldRange | emptyPayload
  | payloadTooLong | payloadLengthMismatch | unsupportedPacketLengthMode
  -- ProtocolError, R353
  | length | echo | shortRx
  -- DeviceIdentityError, R354
  | partnum | version
  -- StateError, R355
  | notIdleAfterConfig | notIdleTx
  deriving DecidableEq, Repr

/-- A datum of an error record: an integer, a rational, a pair, a byte, or a set of bytes given as a list. -/
inductive Info
  | int  (n : Int)
  | rat  (q : Rat)
  | pair (a b : Int)
  | byte (b : Byte)
  | set  (bs : Bytes)
  deriving DecidableEq, Repr

/-- What the raising rule gives of an error record (60_exceptions.md R350). `header` and `index` hold what
40_bus_codec.md R120 and R121 name and R350's tuple has no place for (DESIGN CHOICE, log entry 8). -/
structure ErrorInfo where
  kind     : ErrorKind
  reg      : Option Addr6 := none
  value    : Option Info  := none
  expected : Option Info  := none
  actual   : Option Info  := none
  header   : Option Byte  := none
  index    : Option Nat   := none
  deriving DecidableEq, Repr

/-- An error record (60_exceptions.md R350): what the rule gives and the host operation that raised it. Its class is
computed from its kind (log entry 8). -/
structure ErrorRecord where
  op   : Instr
  info : ErrorInfo
  deriving DecidableEq, Repr

/-- The reasons of a refusal (60_exceptions.md R357). -/
inductive RefuseReason
  | wrongState  (call : HostCall) (life : Life)
  | illegalForm (header : Byte) (n : Nat)
  deriving DecidableEq, Repr

/-- `Outcome(T)` (00_scope.md R12). -/
inductive OpOutcome
  | ok      (v : Value)
  | err     (e : ErrorRecord)
  | refused (r : RefuseReason)
  deriving DecidableEq, Repr

/-- Soft warnings (60_exceptions.md R356; 40_bus_codec.md R121; 42_field_conversions.md R262). -/
inductive Warning
  | frequencyBelowTxFloor (hz : Hz)
  | echoMismatch (header : Byte) (index : Nat) (status echo : Byte)
  deriving DecidableEq, Repr

/-- The event kinds of the trace (10_state.md R24). -/
inductive Event
  | opStart        (call : HostCall)
  | xfer           (tx rx : Bytes)
  | statusObserved (b : Byte)
  | gpioWait       (t : Timeout) (r : Bool)
  | warning        (w : Warning)
  | errorRaised    (e : ErrorRecord)
  | opEnd          (o : OpOutcome)
  deriving DecidableEq, Repr

end Sys2Proof.Machine
end

