-- ==== Sys2Proof/Config.lean ====
section
/-! DEFINITION. The configuration record `C` (00_scope.md R5) and the free values: what the spec leaves to the outside
world, as opaque constants that nothing can evaluate. -/

namespace Sys2Proof

/-- Burst-write echo validation, OPEN (00_scope.md R5; 40_bus_codec.md R121). -/
inductive EchoPolicy
  | advisory | matchStatus | match0F
  deriving DecidableEq, Repr

/-- The record `C` of 00_scope.md R5, fixed for the lifetime of a block (70_reset_and_hazards.md R390). A crystal of 0 Hz
cannot be written down: the conversions divide by it (DEDUCED, log entry 13). R5 gives no type to the frequencies
`C.CRYSTAL_HZ`, `C.TX_FLOOR_HZ`, `C.TX_FLOOR_TOLERANCE_HZ` and `C.SPI_CLOCK_HZ`: whole hertz here (DESIGN CHOICE, log
entry 17). -/
structure Config where
  crystalHz          : Nat
  crystalPos         : 0 < crystalHz
  supportedPartnum   : Byte
  versionWhitelist   : List Byte
  echoPolicy         : EchoPolicy
  txFloorHz          : Nat
  txFloorToleranceHz : Nat
  spiClockHz         : Nat
  patableSize        : Nat
  deriving DecidableEq, Repr

/-- The defaults of 00_scope.md R5. `echoPolicy` and `versionWhitelist` are OPEN there (DESIGN CHOICE, log entry 3). -/
def Config.default : Config where
  crystalHz := 26000000
  crystalPos := by decide
  supportedPartnum := 0x00
  versionWhitelist := [0x04, 0x14]
  echoPolicy := .advisory
  txFloorHz := 281700000
  txFloorToleranceHz := 50000
  spiClockHz := 55700
  patableSize := 8

/-- The oracle's answer to an `Xfer` (10_state.md R21): any byte list of any length, depending on the choice, the whole
event history and the bytes sent. A free value (log entry 2). -/
opaque Config.spiAnswer (choice : Nat) (trace : List Machine.Event) (tx : Bytes) : Bytes

/-- The oracle's answer to a `GpioWaitRising` (10_state.md R21): any Boolean. A free value (log entry 2). -/
opaque Config.gpioAnswer (choice : Nat) (trace : List Machine.Event) (t : Timeout) : Bool

/-- What RR reports for a queue of more than 255 bytes: 20_memory.md R71 states no byte for such a count. A free value
(log entry 10). -/
opaque Config.longQueueCount (len : Nat) : Byte

end Sys2Proof
end

