-- ==== Sys2Proof/Machine/State.lean ====
section
/-! DEFINITION. The machine's state: the block's own record `S` (10_state.md R22), its configuration `C`, and, as the
model's own fields, the outside world that answers it and the host's list of calls. -/

namespace Sys2Proof.Machine

/-- A bank of remote bytes: a list of cells in the canonical form `Memory.wf` of Machine/Memory.lean. -/
abbrev Memory := List Host.Cell

/-- The variables of the reference responder RR (20_memory.md R70). `regs` and `patable` are banks in
canonical form: an unlisted address reads as after chip reset. -/
structure Responder where
  regs    : Memory
  patable : Memory
  txq     : Bytes
  rxq     : Bytes
  packets : List Bytes
  marc    : Byte
  status  : Byte
  version : Byte
  gpio    : List Bool
  deriving DecidableEq, Repr

/-- The oracle (10_state.md R21) as plain data: scripted answers, oldest first, and after them the free values of
Config applied to the counter `choice`, or the reference responder (20_memory.md R70) (log entry 2). -/
inductive Environment
  | scripted  (spi : List Bytes) (gpio : List Bool) (choice : Nat)
  | responder (r : Responder)
  deriving DecidableEq, Repr

/-- The machine. `life` to `trace` are the record `S` of 10_state.md R22; `cfg` is `C` of 00_scope.md R5; `env`,
`program` and `pc` are the model's own (log entries 1 and 2). -/
structure State where
  life       : Life
  refused    : Bool
  faults     : List ErrorRecord
  lastStatus : Option Byte
  trace      : List Event
  cfg        : Config
  env        : Environment
  program    : List HostCall
  pc         : Nat
  deriving DecidableEq, Repr

/-- Why a step stops with a fault. No rule of the spec stops the machine: an error is an operation's outcome
(60_exceptions.md R360). So no one raises one (safe: there is none). -/
inductive Fault
  deriving DecidableEq, Repr

/-- Why a step has no next state. -/
inductive Refusal
  /-- Raised by an arm of exec whose instruction has no meaning yet. Safe: nothing follows from it. -/
  | notModelled (mnemonic : String)
  /-- Raised by step when the host has handed over no call to run (10_state.md R27). Safe: the block has no step then. -/
  | noHostCall
  deriving DecidableEq, Repr

/-- A block just created (10_state.md R30; 70_reset_and_hazards.md R390), its configuration the defaults of R5, nothing
assumed of the chip, and no program handed over (log entries 1 to 3). -/
def State.reset : State where
  life := .closed
  refused := false
  faults := []
  lastStatus := none
  trace := []
  cfg := Config.default
  env := .scripted [] [] 0
  program := []
  pc := 0

end Sys2Proof.Machine
end

