-- ==== Sys2Proof/Machine/Memory.lean ====
section
/-! DEFINITION. The remote memories of the reference responder (20_memory.md R52, R55, R57, R70): banks of bytes kept as
canonical lists of cells, unlisted addresses reading as after chip reset. The block itself has no memory (R50). -/

namespace Sys2Proof.Machine

/-- Reset column of 20_memory.md R52. -/
def configResetValue : ConfigReg → Byte
  | .iocfg2 => 0x29 | .iocfg1 => 0x2E | .iocfg0 => 0x3F | .fifothr => 0x07
  | .sync1 => 0xD3 | .sync0 => 0x91 | .pktlen => 0xFF | .pktctrl1 => 0x04
  | .pktctrl0 => 0x45 | .addr => 0x00 | .channr => 0x00 | .fsctrl1 => 0x0F
  | .fsctrl0 => 0x00 | .freq2 => 0x1E | .freq1 => 0xC4 | .freq0 => 0xEC
  | .mdmcfg4 => 0x8C | .mdmcfg3 => 0x22 | .mdmcfg2 => 0x02 | .mdmcfg1 => 0x22
  | .mdmcfg0 => 0xF8 | .deviatn => 0x47 | .mcsm2 => 0x07 | .mcsm1 => 0x30
  | .mcsm0 => 0x04 | .foccfg => 0x36 | .bscfg => 0x6C | .agcctrl2 => 0x03
  | .agcctrl1 => 0x40 | .agcctrl0 => 0x91 | .worevt1 => 0x87 | .worevt0 => 0x6B
  | .worctrl => 0xF8 | .frend1 => 0x56 | .frend0 => 0x10 | .fscal3 => 0xA9
  | .fscal2 => 0x0A | .fscal1 => 0x20 | .fscal0 => 0x0D | .rcctrl1 => 0x41
  | .rcctrl0 => 0x00 | .fstest => 0x59 | .ptest => 0x7F | .agctest => 0x3F
  | .test2 => 0x88 | .test1 => 0x31 | .test0 => 0x0B

/-- The configuration registers in address order (20_memory.md R52). -/
def configRegs : List ConfigReg :=
  [.iocfg2, .iocfg1, .iocfg0, .fifothr, .sync1, .sync0, .pktlen, .pktctrl1, .pktctrl0, .addr, .channr, .fsctrl1,
   .fsctrl0, .freq2, .freq1, .freq0, .mdmcfg4, .mdmcfg3, .mdmcfg2, .mdmcfg1, .mdmcfg0, .deviatn, .mcsm2, .mcsm1,
   .mcsm0, .foccfg, .bscfg, .agcctrl2, .agcctrl1, .agcctrl0, .worevt1, .worevt0, .worctrl, .frend1, .frend0, .fscal3,
   .fscal2, .fscal1, .fscal0, .rcctrl1, .rcctrl0, .fstest, .ptest, .agctest, .test2, .test1, .test0]

/-- PATABLE after chip reset (20_memory.md R55). -/
def patableReset : Bytes := [0xC6, 0x00, 0x00, 0x00, 0x00, 0x00, 0x00, 0x00]

/-- The responder's two memories. -/
inductive Bank
  | config | patable
  deriving DecidableEq, Repr

/-- Number of bytes of a bank: 47 registers (20_memory.md R52), 8 entries (R55). -/
def bankSize : Bank → Nat
  | .config => 47
  | .patable => 8

/-- What an unlisted address reads as: the contents after chip reset (20_memory.md R52, R55, R70). -/
def bankReset (k : Bank) (a : Nat) : Byte :=
  match k with
  | .config => (configRegs.map configResetValue).getD a 0
  | .patable => patableReset.getD a 0

/-- Read one byte. -/
def memRead (k : Bank) : Memory → Nat → Byte
  | [], a => bankReset k a
  | (b, v) :: m, a => if a = b then v else memRead k m a

/-- Put one byte in place, keeping the addresses rising. -/
def memInsert (a : Nat) (v : Byte) : Memory → Memory
  | [] => [(a, v)]
  | (b, w) :: m =>
      if a < b then (a, v) :: (b, w) :: m
      else if a = b then (a, v) :: m
      else (b, w) :: memInsert a v m

/-- Take one address off the list. -/
def memErase (a : Nat) : Memory → Memory
  | [] => []
  | (b, w) :: m => if a = b then m else (b, w) :: memErase a m

/-- Write one byte: writing what an unlisted address reads as removes the entry. -/
def memWrite (k : Bank) (m : Memory) (a : Nat) (v : Byte) : Memory :=
  if v = bankReset k a then memErase a m else memInsert a v m

/-- Write consecutive bytes from `a` (20_memory.md R57). -/
def memWriteBytes (k : Bank) (m : Memory) (a : Nat) : Bytes → Memory
  | [] => m
  | v :: vs => memWriteBytes k (memWrite k m a v) (a + 1) vs

/-- Read `n` consecutive bytes from `a` (20_memory.md R57). -/
def memReadBytes (k : Bank) (m : Memory) (a : Nat) : Nat → Bytes
  | 0 => []
  | n + 1 => memRead k m a :: memReadBytes k m (a + 1) n

/-- The canonical form: addresses strictly rising from `lo`, inside the bank, no entry equal to what an unlisted
address reads as. -/
def memWfFrom (k : Bank) (lo : Nat) : Memory → Bool
  | [] => true
  | (a, v) :: m => decide (lo ≤ a ∧ a < bankSize k ∧ v ≠ bankReset k a) && memWfFrom k (a + 1) m

/-- The canonical form of a bank. -/
def Memory.wf (k : Bank) (m : Memory) : Bool := memWfFrom k 0 m

end Sys2Proof.Machine
end

