-- ==== Sys2Proof/Machine/Environment.lean ====
section
/-! DEFINITION. The outside world: the oracle of 10_state.md R21 and the reference responder RR of 20_memory.md R70 to
R72. RR is one oracle among all; no rule of the block depends on it. -/

namespace Sys2Proof.Machine

/-- RR's MARCSTATE bytes (20_memory.md R72; 43_lifecycle.md R288). -/
def marcIdle : Byte := 0x01
def marcRx : Byte := 0x0D
def marcTx : Byte := 0x13

/-- A new RR (20_memory.md R70) with the packets and the edges a test supplies. -/
def Responder.initial (packets : List Bytes) (gpio : List Bool) : Responder where
  regs := []
  patable := []
  txq := []
  rxq := []
  packets := packets
  marc := marcIdle
  status := 0x0F
  version := 0x14
  gpio := gpio

/-- A queue length as the byte RR reports (20_memory.md R71). R71 states no byte for a length over 255: a free value
there (log entry 10). -/
def queueCount (len : Nat) : Byte := if len ≤ 255 then BitVec.ofNat 8 len else Config.longQueueCount len

/-- RR's answer to a status read (20_memory.md R71). -/
def Responder.statusByte (r : Responder) : StatusReg → Byte
  | .partnum => 0x00
  | .version => r.version
  | .marcstate => r.marc
  | .txbytes => queueCount r.txq.length
  | .rxbytes => queueCount r.rxq.length
  | _ => 0x00

/-- RR's strobe effects (20_memory.md R72). -/
def Responder.strobe (r : Responder) : StrobeCmd → Responder
  | .sres => { r with regs := [], patable := [], txq := [], rxq := [], marc := marcIdle }
  | .sftx => { r with txq := [] }
  | .sfrx => { r with rxq := [] }
  | .stx => { r with marc := marcTx, txq := [] }
  | .srx =>
      match r.packets with
      | [] => { r with marc := marcRx }
      | p :: ps => { r with marc := marcRx, rxq := r.rxq ++ p, packets := ps }
  | .sidle => { r with marc := marcIdle }
  | _ => r

/-- The first `n` bytes of a queue, zero for each missing one (20_memory.md R71). -/
def popBytes (n : Nat) (q : Bytes) : Bytes := (q ++ List.replicate n 0x00).take n

/-- A burst read of the RX FIFO: the bytes pop, and an emptied queue leaves RR idle (20_memory.md R71). -/
def Responder.popRx (r : Responder) (n : Nat) : Responder :=
  let q := r.rxq.drop n
  { r with rxq := q, marc := if q = [] then marcIdle else r.marc }

/-- The data bytes RR answers a legal form with (20_memory.md R71). -/
def Responder.data (r : Responder) (f : Form) : Bytes :=
  let a := f.addr.toNat
  match f.mode with
  | .readSingle => memReadBytes .config r.regs a f.n
  | .readBurst =>
      if a ≤ 0x2E then memReadBytes .config r.regs a f.n
      else if f.addr = patableAddr then memReadBytes .patable r.patable 0 f.n
      else if f.addr = fifoAddr then popBytes f.n r.rxq
      else match StatusReg.ofAddr? f.addr with
        | some sr => List.replicate f.n (r.statusByte sr)
        | none => List.replicate f.n r.status
  | .writeSingle => List.replicate f.n r.status
  | .writeBurst => List.replicate f.n r.status

/-- RR's next state after a frame of a legal form (20_memory.md R71, R72). -/
def Responder.effect (r : Responder) (f : Form) (data : Bytes) : Responder :=
  match f.mode with
  | .readSingle => r
  | .readBurst => if f.addr = fifoAddr then r.popRx f.n else r
  | .writeBurst =>
      if f.addr = patableAddr then { r with patable := memWriteBytes .patable r.patable 0 data }
      else if f.addr = fifoAddr then { r with txq := r.txq ++ data }
      else { r with regs := memWriteBytes .config r.regs f.addr.toNat data }
  | .writeSingle =>
      match StrobeCmd.ofAddr? f.addr with
      | some c => r.strobe c
      | none => r

/-- RR's answer to a frame and its next state (20_memory.md R71): the status byte, then the data bytes. R71 says that RR
never answers a form the block refuses to issue: to such a frame the model's RR answers status bytes of the frame's
length and keeps its state, so that the function is total (DESIGN CHOICE, log entry 10; no call sends one). -/
def Responder.answer (r : Responder) : Bytes → Bytes × Responder
  | [] => ([], r)
  | h :: data =>
      let f := formOf h data
      if legalForm f then (r.status :: r.data f, r.effect f data)
      else (List.replicate (data.length + 1) r.status, r)

/-- The oracle's answer to `Xfer(tx)` after the history `trace` (10_state.md R21). -/
def Environment.answerSpi (env : Environment) (trace : List Event) (tx : Bytes) : Bytes × Environment :=
  match env with
  | .scripted (rx :: rest) gpio choice => (rx, .scripted rest gpio choice)
  | .scripted [] gpio choice => (Config.spiAnswer choice trace tx, .scripted [] gpio (choice + 1))
  | .responder r => ((r.answer tx).1, .responder (r.answer tx).2)

/-- The oracle's answer to `GpioWaitRising(t)` after the history `trace` (10_state.md R21); RR's is the next of its list,
FALSE when exhausted (20_memory.md R72). -/
def Environment.answerGpio (env : Environment) (trace : List Event) (t : Timeout) : Bool × Environment :=
  match env with
  | .scripted spi (b :: rest) choice => (b, .scripted spi rest choice)
  | .scripted spi [] choice => (Config.gpioAnswer choice trace t, .scripted spi [] (choice + 1))
  | .responder r =>
      match r.gpio with
      | b :: rest => (b, .responder { r with gpio := rest })
      | [] => (false, .responder r)

/-- RR's two banks in canonical form; a scripted oracle holds none. -/
def Environment.wf : Environment → Bool
  | .scripted _ _ _ => true
  | .responder r => Memory.wf .config r.regs && Memory.wf .patable r.patable

end Sys2Proof.Machine
end

