-- ==== Sys2Proof/Machine/Operands.lean ====
section
/-! DEFINITION. The operand forms of the operations: register fields and their merge (41_register_fields.md R180), the
layouts (R183 to R192), the code tables (R193 to R197), MARCSTATE (43_lifecycle.md R288) and the byte order of
multi-register values (00_scope.md R10; 20_memory.md R59). -/

namespace Sys2Proof.Machine

/-! ### Fields -/

/-- A field `(reg, hi, lo)` (41_register_fields.md R180). -/
structure Field where
  reg : Addr6
  hi  : Nat
  lo  : Nat
  deriving DecidableEq, Repr

/-- Width `hi - lo + 1` (41_register_fields.md R180). -/
def fieldWidth (f : Field) : Nat := f.hi - f.lo + 1

/-- `mask(F) = ((1 << w) - 1) << lo` (41_register_fields.md R180). -/
def fieldMask (f : Field) : Byte := BitVec.ofNat 8 (((1 <<< fieldWidth f) - 1) <<< f.lo)

/-- `merge(b, F, v) = (b & ~8 mask(F)) | (v << lo)` (41_register_fields.md R180). -/
def merge (b : Byte) (f : Field) (v : Nat) : Byte := (b &&& ~~~ fieldMask f) ||| BitVec.ofNat 8 (v <<< f.lo)

/-- `b[hi:lo]` (00_scope.md R8). -/
def fieldOf (b : Byte) (f : Field) : Nat := (b.toNat >>> f.lo) % 2 ^ fieldWidth f

-- PKTCTRL0 (41_register_fields.md R183).
def whiteData : Field := ⟨ConfigReg.address .pktctrl0, 6, 6⟩
def pktFormat : Field := ⟨ConfigReg.address .pktctrl0, 5, 4⟩
def crcEn : Field := ⟨ConfigReg.address .pktctrl0, 2, 2⟩
def lengthConfig : Field := ⟨ConfigReg.address .pktctrl0, 1, 0⟩
-- PKTCTRL1 (R184): no accessor reads or writes it; the host keeps APPEND_STATUS set (70_reset_and_hazards.md R395).
def pqt : Field := ⟨ConfigReg.address .pktctrl1, 7, 5⟩
def crcAutoflush : Field := ⟨ConfigReg.address .pktctrl1, 3, 3⟩
def appendStatus : Field := ⟨ConfigReg.address .pktctrl1, 2, 2⟩
def adrChk : Field := ⟨ConfigReg.address .pktctrl1, 1, 0⟩
-- MDMCFG4 (R185) and MDMCFG3 (R186).
def chanbwE : Field := ⟨ConfigReg.address .mdmcfg4, 7, 6⟩
def chanbwM : Field := ⟨ConfigReg.address .mdmcfg4, 5, 4⟩
def drateE : Field := ⟨ConfigReg.address .mdmcfg4, 3, 0⟩
def drateM : Field := ⟨ConfigReg.address .mdmcfg3, 7, 0⟩
-- MDMCFG2 (R187).
def demDcfiltOff : Field := ⟨ConfigReg.address .mdmcfg2, 7, 7⟩
def modFormat : Field := ⟨ConfigReg.address .mdmcfg2, 6, 4⟩
def manchesterEn : Field := ⟨ConfigReg.address .mdmcfg2, 3, 3⟩
def carrierSense : Field := ⟨ConfigReg.address .mdmcfg2, 2, 2⟩
def syncModeField : Field := ⟨ConfigReg.address .mdmcfg2, 1, 0⟩
-- MDMCFG1 (R188).
def fecEn : Field := ⟨ConfigReg.address .mdmcfg1, 7, 7⟩
def numPreamble : Field := ⟨ConfigReg.address .mdmcfg1, 6, 4⟩
def chanspcE : Field := ⟨ConfigReg.address .mdmcfg1, 1, 0⟩
-- FREND0 (R189).
def lodivBufCurrentTx : Field := ⟨ConfigReg.address .frend0, 5, 4⟩
def paPower : Field := ⟨ConfigReg.address .frend0, 2, 0⟩
-- MCSM0 (R190).
def fsAutocal : Field := ⟨ConfigReg.address .mcsm0, 5, 4⟩
def poTimeout : Field := ⟨ConfigReg.address .mcsm0, 3, 2⟩
def pinCtrlEn : Field := ⟨ConfigReg.address .mcsm0, 1, 1⟩
def xoscForceOn : Field := ⟨ConfigReg.address .mcsm0, 0, 0⟩

/-! ### Code tables -/

/-- Transceive mode codes (41_register_fields.md R193). -/
def transceiveCode : TransceiveMode → Nat
  | .fifo => 0b00
  | .synchronousSerial => 0b01
  | .randomTransmission => 0b10
  | .asynchronousSerial => 0b11

/-- Reading of a transceive mode code (41_register_fields.md R193, R199). -/
def transceiveOfCode : Nat → Reading TransceiveMode
  | 0b00 => .known .fifo
  | 0b01 => .known .synchronousSerial
  | 0b10 => .known .randomTransmission
  | 0b11 => .known .asynchronousSerial
  | k => .unknown k

/-- Modulation format codes (41_register_fields.md R194). -/
def modulationCode : ModulationFormat → Nat
  | .fsk2 => 0b000
  | .gfsk => 0b001
  | .askOok => 0b011
  | .fsk4 => 0b100
  | .msk => 0b111

/-- Reading of a modulation format code (41_register_fields.md R194, R199). -/
def modulationOfCode : Nat → Reading ModulationFormat
  | 0b000 => .known .fsk2
  | 0b001 => .known .gfsk
  | 0b011 => .known .askOok
  | 0b100 => .known .fsk4
  | 0b111 => .known .msk
  | k => .unknown k

/-- Sync mode codes (41_register_fields.md R195). -/
def syncModeCode : SyncMode → Nat
  | .noPreambleAndSyncWord => 0b00
  | .transmit16Match15Bits => 0b01
  | .transmit16Match16Bits => 0b10
  | .transmit32Match30Bits => 0b11

/-- Reading of a sync mode code (41_register_fields.md R195, R199). -/
def syncModeOfCode : Nat → Reading SyncMode
  | 0b00 => .known .noPreambleAndSyncWord
  | 0b01 => .known .transmit16Match15Bits
  | 0b10 => .known .transmit16Match16Bits
  | 0b11 => .known .transmit32Match30Bits
  | k => .unknown k

/-- Packet-length mode codes (41_register_fields.md R196). -/
def packetLengthModeCode : PacketLengthMode → Nat
  | .fixed => 0b00
  | .variable => 0b01

/-- Reading of a packet-length mode code (41_register_fields.md R196, R199). -/
def packetLengthModeOfCode : Nat → Reading PacketLengthMode
  | 0b00 => .known .fixed
  | 0b01 => .known .variable
  | k => .unknown k

/-- The preamble table, bytes by code (41_register_fields.md R197). -/
def preambleTable : List Nat := [2, 3, 4, 6, 8, 12, 16, 24]

/-- Preamble length of a code (41_register_fields.md R197). -/
def preambleOfCode (k : Nat) : Nat := preambleTable.getD k 0

/-- Code of a preamble length, if it is in the table (41_register_fields.md R197). -/
def preambleCode? (nbytes : Int) : Option Nat := preambleTable.findIdx? (fun b => decide ((b : Int) = nbytes))

/-- MARCSTATE codes (43_lifecycle.md R288). -/
def marcOfCode : Nat → Reading MarcState
  | 0 => .known .sleep
  | 1 => .known .idle
  | 2 => .known .xoff
  | 3 => .known .vcoonMc
  | 4 => .known .regonMc
  | 5 => .known .mancal
  | 6 => .known .vcoon
  | 7 => .known .regon
  | 8 => .known .startcal
  | 9 => .known .bwboost
  | 10 => .known .fsLock
  | 11 => .known .ifadcon
  | 12 => .known .endcal
  | 13 => .known .rx
  | 14 => .known .rxEnd
  | 15 => .known .rxRst
  | 16 => .known .txrxSwitch
  | 17 => .known .rxfifoOverflow
  | 18 => .known .fstxon
  | 19 => .known .tx
  | 20 => .known .txEnd
  | 21 => .known .rxtxSwitch
  | 22 => .known .txfifoUnderflow
  | k => .unknown k

/-- The MARCSTATE code of a status byte, bits 4:0 (43_lifecycle.md R285, R287, R288). -/
def marcCode (m : Byte) : Nat := m.toNat % 32

/-- IDLE is code 1 (43_lifecycle.md R285, R288). -/
def isIdle (m : Byte) : Bool := decide (marcCode m = 0x01)

/-- The RX byte count, bits 6:0 of RXBYTES (44_packet_engine.md R321). -/
def rxCount (c : Byte) : Nat := c.toNat % 128

/-! ### Byte order -/

/-- `be3(w)` (00_scope.md R10). -/
def be3 (w : Word24) : Bytes := [w.extractLsb' 16 8, w.extractLsb' 8 8, w.extractLsb' 0 8]

/-- `unbe3([a, b, c])` (00_scope.md R10), of the first three bytes of a list. -/
def unbe3 (v : Bytes) : Word24 := (v.getD 0 0 ++ v.getD 1 0) ++ v.getD 2 0

/-- Byte `i` of a response or buffer. -/
def byteAt (v : Bytes) (i : Nat) : Byte := v.getD i 0

end Sys2Proof.Machine
end

