-- ==== Sys2Proof/Machine/Ops.lean ====
section
/-! DEFINITION. The shared operations: events and transfers (00_scope.md R13), the transaction skeleton and the echo check
(40_bus_codec.md R120, R121), the envelope of a host operation (00_scope.md R12; 10_state.md R24, R25), raising an
error (60_exceptions.md R360) and refusing (R357). -/

namespace Sys2Proof.Machine

/-! ### The state's log -/

/-- `emit(ev)` (00_scope.md R13). -/
def State.emit (s : State) (ev : Event) : State := { s with trace := s.trace ++ [ev] }

/-- `S.lastStatus <- rx[0]; emit(StatusObserved(rx[0]))` (40_bus_codec.md R120 step 3). -/
def State.observe (s : State) (b : Byte) : State :=
  { s with lastStatus := some b, trace := s.trace ++ [.statusObserved b] }

/-- What the oracle answers to `Xfer(tx)` in this state (10_state.md R21). -/
def State.reply (s : State) (tx : Bytes) : Bytes := (s.env.answerSpi s.trace tx).1

/-- The state after `Xfer(tx)`: the oracle has answered and the event is logged (00_scope.md R13). -/
def State.xferred (s : State) (tx : Bytes) : State :=
  { s with env := (s.env.answerSpi s.trace tx).2, trace := s.trace ++ [.xfer tx (s.reply tx)] }

/-- What the oracle answers to `GpioWaitRising(t)` in this state (10_state.md R21). -/
def State.edge (s : State) (t : Timeout) : Bool := (s.env.answerGpio s.trace t).1

/-- The state after `GpioWaitRising(t)` (00_scope.md R13). -/
def State.waited (s : State) (t : Timeout) : State :=
  { s with env := (s.env.answerGpio s.trace t).2, trace := s.trace ++ [.gpioWait t (s.edge t)] }

/-- The state after a transaction whose response has the expected length (40_bus_codec.md R120 steps 1 and 3). -/
def State.transacted (s : State) (tx : Bytes) : State := (s.xferred tx).observe (byteAt (s.reply tx) 0)

/-! ### Operations that may end early -/

/-- Why an operation ends before its last line (00_scope.md R12). -/
inductive Abort
  | err    (e : ErrorInfo)
  | refuse (r : RefuseReason)
  deriving DecidableEq, Repr

/-- The body of an operation: it changes the state and ends with a result or an abort; what it did before an abort
stands (60_exceptions.md R360). -/
abbrev Op := EStateM Abort State

/-- `raise E(info)` (00_scope.md R12): its effect on the state is `State.takeError`. -/
def raise {α : Type} (e : ErrorInfo) : Op α := throw (.err e)

/-- `emit(Warning(kind, value))` (60_exceptions.md R356). -/
def warn (w : Warning) : Op Unit := fun s => .ok () (s.emit (.warning w))

/-- `S.life` (00_scope.md R13). -/
def getLife : Op Life := fun s => .ok s.life s

/-- `S.life <- l` (00_scope.md R13). -/
def setLife (l : Life) : Op Unit := fun s => .ok () { s with life := l }

/-- `C` (00_scope.md R13). -/
def getCfg : Op Config := fun s => .ok s.cfg s

/-- `GpioWaitRising(t)` (00_scope.md R13). -/
def gpioWaitRising (t : Timeout) : Op Bool := fun s => .ok (s.edge t) (s.waited t)

/-! ### Transactions -/

/-- `Transact(tx, expect)` (40_bus_codec.md R120). -/
def transact (tx : Bytes) (expect : Nat) : Op Bytes := fun s =>
  if legalFrame tx then
    if (s.reply tx).length = expect then .ok (s.reply tx) (s.transacted tx)
    else
      .error
        (.err { kind := .length, header := tx.head?, expected := some (.int expect),
                actual := some (.int (s.reply tx).length) })
        (s.xferred tx)
  else .error (.refuse (.illegalForm (byteAt tx 0) (tx.length - 1))) s

/-- `EchoCheck(tx, rx)` from echo byte `i` on (40_bus_codec.md R121): `h` is the header, `lead` is rx[0]. -/
def echoCheckFrom (policy : EchoPolicy) (h lead : Byte) : Nat → Bytes → Op Unit
  | _, [] => pure ()
  | i, b :: bs =>
      match policy with
      | .advisory =>
          if b = lead then echoCheckFrom policy h lead (i + 1) bs
          else do
            warn (.echoMismatch h i lead b)
            echoCheckFrom policy h lead (i + 1) bs
      | .matchStatus =>
          if b = lead then echoCheckFrom policy h lead (i + 1) bs
          else raise { kind := .echo, header := some h, index := some i, expected := some (.byte lead),
                       actual := some (.byte b) }
      | .match0F =>
          if b = 0x0F then echoCheckFrom policy h lead (i + 1) bs
          else raise { kind := .echo, header := some h, index := some i, expected := some (.byte 0x0F),
                       actual := some (.byte b) }

/-- `EchoCheck(tx, rx)` (40_bus_codec.md R121). -/
def echoCheck (tx rx : Bytes) : Op Unit := do
  let c ← getCfg
  echoCheckFrom c.echoPolicy (byteAt tx 0) (byteAt rx 0) 1 (rx.drop 1)

/-- `ReadSingle(a)` (40_bus_codec.md R122). -/
def readSingle (a : Addr6) : Op Byte := do
  let rx ← transact (frameReadSingle a) 2
  pure (byteAt rx 1)

/-- A burst read of `n` bytes (40_bus_codec.md R124, R156, R158). -/
def readBurst (a : Addr6) (n : Nat) : Op Bytes := do
  let rx ← transact (frameReadBurst a n) (n + 1)
  pure (rx.drop 1)

/-- `ReadStatus(a)` at a numeric address (40_bus_codec.md R125). -/
def readStatusAt (a : Addr6) : Op Byte := do
  let rx ← transact (frameReadStatus a) 2
  pure (byteAt rx 1)

/-- `Strobe(a)` at a numeric address (40_bus_codec.md R126). -/
def strobeAt (a : Addr6) : Op Unit := do
  let _ ← transact (frameStrobe a) 1
  pure ()

/-- `WriteBurst(a, v)` (40_bus_codec.md R127, R157, R159). -/
def writeBurst (a : Addr6) (v : Bytes) : Op Unit := do
  let rx ← transact (frameWriteBurst a v) (v.length + 1)
  echoCheck (frameWriteBurst a v) rx

/-- `RDS r` of a named register (40_bus_codec.md R142 to R155). -/
def readStatus (r : StatusReg) : Op Byte := readStatusAt r.address

/-- `STB c` of a named strobe (40_bus_codec.md R129 to R141). -/
def strobe (c : StrobeCmd) : Op Unit := strobeAt c.address

/-- `ReadPatable(n)` (40_bus_codec.md R156). -/
def readPatable (n : Nat) : Op Bytes := readBurst patableAddr n

/-- `WritePatable(v)` (40_bus_codec.md R157). -/
def writePatable (v : Bytes) : Op Unit := writeBurst patableAddr v

/-- `ReadRxFifo(n)` (40_bus_codec.md R158). -/
def readRxFifo (n : Nat) : Op Bytes := readBurst fifoAddr n

/-- `WriteTxFifo(v)` (40_bus_codec.md R159). -/
def writeTxFifo (v : Bytes) : Op Unit := writeBurst fifoAddr v

/-! ### Read-modify-write -/

/-- Read a register, change the byte, write it back (41_register_fields.md R182). The write is always issued. -/
def readModifyWrite (a : Addr6) (f : Byte → Byte) : Op Unit := do
  let b ← readSingle a
  writeBurst a [f b]

/-- `FieldGet(F)` (41_register_fields.md R181). -/
def fieldGet (f : Field) : Op Nat := do
  let b ← readSingle f.reg
  pure (fieldOf b f)

/-- `FieldSet(F, v)` (41_register_fields.md R182). -/
def fieldSet (f : Field) (v : Nat) : Op Unit := readModifyWrite f.reg (fun b => merge b f v)

/-! ### The envelope of a host operation -/

/-- The operations a lifecycle state accepts (10_state.md R25). -/
def accepts (l : Life) (i : Instr) : Bool :=
  match l with
  | .closed => decide (i = .openOp ∨ i = .closeOp)
  | .ready => decide (i ≠ .openOp ∧ i ≠ .asyncTxEnd)
  | .asyncTx => decide (i = .asyncTxEnd ∨ i = .closeOp)
  | .faulted => decide (i = .closeOp)

/-- The class of a kind (60_exceptions.md R352 to R355). -/
def kindClass : ErrorKind → ErrorClass
  | .preambleLength | .syncWordLength | .packetLength | .patableLength | .patableValue | .paIndex
  | .symbolRateExponent | .symbolRateNonpositive | .frequencyRange | .fieldRange | .emptyPayload
  | .payloadTooLong | .payloadLengthMismatch | .unsupportedPacketLengthMode => .configurationError
  | .length | .echo | .shortRx => .protocolError
  | .partnum | .version => .deviceIdentityError
  | .notIdleAfterConfig | .notIdleTx => .stateError

/-- The numeric class codes (60_exceptions.md R351). -/
def classCode : ErrorClass → Nat
  | .protocolError => 1
  | .configurationError => 2
  | .deviceIdentityError => 3
  | .stateError => 4
  | .lockContentionError => 5

/-- The lifecycle state an error leaves (60_exceptions.md R360). -/
def lifeAfterError (l : Life) (e : ErrorRecord) : Life :=
  if e.op = .openOp then .closed
  else if e.op = .closeOp then .closed
  else if kindClass e.info.kind = .protocolError then .faulted
  else l

/-- Taking an error, `Raise(e)` (60_exceptions.md R360): the event, the record, the lifecycle state, the end of the
operation. There is no handler to enter and no return from it (R362): the next host operation follows. -/
def State.takeError (s : State) (e : ErrorRecord) : State :=
  { s with
    trace := s.trace ++ [.errorRaised e, .opEnd (.err e)]
    faults := s.faults ++ [e]
    life := lifeAfterError s.life e }

/-- Refusing (60_exceptions.md R357; 10_state.md R23): no error event, `life` unchanged, the mark set. -/
def State.refuse (s : State) (r : RefuseReason) : State :=
  { s with trace := s.trace ++ [.opEnd (.refused r)], refused := true }

/-- The end of an operation (00_scope.md R12; 10_state.md R24). -/
def finish (i : Instr) : EStateM.Result Abort State Value → State
  | .ok v s => s.emit (.opEnd (.ok v))
  | .error (.err e) s => s.takeError ⟨i, e⟩
  | .error (.refuse r) s => s.refuse r

/-- The state in which an operation's body starts: its OpStart is logged (10_state.md R24). -/
def State.started (s : State) (i : Instr) : State := s.emit (.opStart (.op i))

/-- A host operation: OpStart, the lifecycle check (10_state.md R25), the body, OpEnd (R24). The lifecycle check comes
before the form check of the body's transactions (log entry 4). -/
def runOp (i : Instr) (body : Op Value) (s : State) : Host.Outcome State Fault Refusal :=
  if accepts s.life i then .next (finish i (body (s.started i)))
  else .next ((s.started i).refuse (.wrongState (.op i) s.life))

/-- A raw frame that is no legal form (30_encoding.md R90; 60_exceptions.md R357): refused for the lifecycle state
first, then for the form (log entries 4 and 5). -/
def refuseRaw (h : Byte) (data : Bytes) (s : State) : State :=
  let s0 := s.emit (.opStart (.raw h data))
  if s.life = .ready then s0.refuse (.illegalForm h data.length)
  else s0.refuse (.wrongState (.raw h data) s.life)

/-! ### The host's calls -/

/-- The next call (10_state.md R27). -/
def State.fetch (s : State) : Option HostCall := s.program[s.pc]?

/-- Put a call at an index of a program, padding a shorter one with `Close` calls before it. -/
def putCall : List HostCall → Nat → HostCall → List HostCall
  | [], 0, c => [c]
  | _ :: cs, 0, c => c :: cs
  | [], k + 1, c => .op .closeOp :: putCall [] k c
  | d :: cs, k + 1, c => d :: putCall cs k c

end Sys2Proof.Machine
end

