-- ==== Sys2Proof/Machine/Codec.lean ====
section
/-! DEFINITION. The transactions as host operations (40_bus_codec.md R122 to R159). -/

namespace Sys2Proof.Machine

/-- A strobe as a host operation (40_bus_codec.md R126). -/
def strobeBody (a : Addr6) : Op Value := do
  strobeAt a
  pure .unit

/-- A status read as a host operation (40_bus_codec.md R125). -/
def statusBody (a : Addr6) : Op Value := do
  let b ← readStatusAt a
  pure (.byte b)

/-- A burst read as a host operation (40_bus_codec.md R124, R156, R158). -/
def burstReadBody (a : Addr6) (n : Nat) : Op Value := do
  let v ← readBurst a n
  pure (.bytes v)

/-- A burst write as a host operation (40_bus_codec.md R127, R157, R159). -/
def burstWriteBody (a : Addr6) (v : Bytes) : Op Value := do
  writeBurst a v
  pure .unit

/-- `RD1 a` (40_bus_codec.md R122). -/
def execRd1 (a : Addr6) (s : State) : Host.Outcome State Fault Refusal :=
  runOp (.rd1 a) (do let b ← readSingle a; pure (.byte b)) s

/-- `RDB a, n` (40_bus_codec.md R124). -/
def execRdb (a : Addr6) (n : Nat) (s : State) : Host.Outcome State Fault Refusal :=
  runOp (.rdb a n) (burstReadBody a n) s

/-- `RDS a` (40_bus_codec.md R125). -/
def execRds (a : Addr6) (s : State) : Host.Outcome State Fault Refusal :=
  runOp (.rds a) (statusBody a) s

/-- `STB a` (40_bus_codec.md R126). -/
def execStb (a : Addr6) (s : State) : Host.Outcome State Fault Refusal :=
  runOp (.stb a) (strobeBody a) s

/-- `WRB a, v` (40_bus_codec.md R127). -/
def execWrb (a : Addr6) (v : Bytes) (s : State) : Host.Outcome State Fault Refusal :=
  runOp (.wrb a v) (burstWriteBody a v) s

/-- `Reset()`: exactly `Strobe(0x30)` (40_bus_codec.md R128). -/
def execResetOp (s : State) : Host.Outcome State Fault Refusal :=
  runOp .resetOp (strobeBody (StrobeCmd.address .sres)) s

/-- `STB SRES` (40_bus_codec.md R129). -/
def execStbSres (s : State) : Host.Outcome State Fault Refusal :=
  runOp .stbSres (strobeBody (StrobeCmd.address .sres)) s

/-- `STB SFSTXON` (40_bus_codec.md R130). -/
def execStbSfstxon (s : State) : Host.Outcome State Fault Refusal :=
  runOp .stbSfstxon (strobeBody (StrobeCmd.address .sfstxon)) s

/-- `STB SXOFF` (40_bus_codec.md R131). -/
def execStbSxoff (s : State) : Host.Outcome State Fault Refusal :=
  runOp .stbSxoff (strobeBody (StrobeCmd.address .sxoff)) s

/-- `STB SCAL` (40_bus_codec.md R132). -/
def execStbScal (s : State) : Host.Outcome State Fault Refusal :=
  runOp .stbScal (strobeBody (StrobeCmd.address .scal)) s

/-- `STB SRX` (40_bus_codec.md R133). -/
def execStbSrx (s : State) : Host.Outcome State Fault Refusal :=
  runOp .stbSrx (strobeBody (StrobeCmd.address .srx)) s

/-- `STB STX` (40_bus_codec.md R134). -/
def execStbStx (s : State) : Host.Outcome State Fault Refusal :=
  runOp .stbStx (strobeBody (StrobeCmd.address .stx)) s

/-- `STB SIDLE` (40_bus_codec.md R135). -/
def execStbSidle (s : State) : Host.Outcome State Fault Refusal :=
  runOp .stbSidle (strobeBody (StrobeCmd.address .sidle)) s

/-- `STB SWOR` (40_bus_codec.md R136). -/
def execStbSwor (s : State) : Host.Outcome State Fault Refusal :=
  runOp .stbSwor (strobeBody (StrobeCmd.address .swor)) s

/-- `STB SPWD` (40_bus_codec.md R137). -/
def execStbSpwd (s : State) : Host.Outcome State Fault Refusal :=
  runOp .stbSpwd (strobeBody (StrobeCmd.address .spwd)) s

/-- `STB SFRX` (40_bus_codec.md R138). -/
def execStbSfrx (s : State) : Host.Outcome State Fault Refusal :=
  runOp .stbSfrx (strobeBody (StrobeCmd.address .sfrx)) s

/-- `STB SFTX` (40_bus_codec.md R139). -/
def execStbSftx (s : State) : Host.Outcome State Fault Refusal :=
  runOp .stbSftx (strobeBody (StrobeCmd.address .sftx)) s

/-- `STB SWORRST` (40_bus_codec.md R140). -/
def execStbSworrst (s : State) : Host.Outcome State Fault Refusal :=
  runOp .stbSworrst (strobeBody (StrobeCmd.address .sworrst)) s

/-- `STB SNOP` (40_bus_codec.md R141). -/
def execStbSnop (s : State) : Host.Outcome State Fault Refusal :=
  runOp .stbSnop (strobeBody (StrobeCmd.address .snop)) s

/-- `RDS PARTNUM` (40_bus_codec.md R142). -/
def execRdsPartnum (s : State) : Host.Outcome State Fault Refusal :=
  runOp .rdsPartnum (statusBody (StatusReg.address .partnum)) s

/-- `RDS VERSION` (40_bus_codec.md R143). -/
def execRdsVersion (s : State) : Host.Outcome State Fault Refusal :=
  runOp .rdsVersion (statusBody (StatusReg.address .version)) s

/-- `RDS FREQEST` (40_bus_codec.md R144). -/
def execRdsFreqest (s : State) : Host.Outcome State Fault Refusal :=
  runOp .rdsFreqest (statusBody (StatusReg.address .freqest)) s

/-- `RDS LQI` (40_bus_codec.md R145). -/
def execRdsLqi (s : State) : Host.Outcome State Fault Refusal :=
  runOp .rdsLqi (statusBody (StatusReg.address .lqi)) s

/-- `RDS RSSI` (40_bus_codec.md R146). -/
def execRdsRssi (s : State) : Host.Outcome State Fault Refusal :=
  runOp .rdsRssi (statusBody (StatusReg.address .rssi)) s

/-- `RDS MARCSTATE` (40_bus_codec.md R147). -/
def execRdsMarcstate (s : State) : Host.Outcome State Fault Refusal :=
  runOp .rdsMarcstate (statusBody (StatusReg.address .marcstate)) s

/-- `RDS WORTIME1` (40_bus_codec.md R148). -/
def execRdsWortime1 (s : State) : Host.Outcome State Fault Refusal :=
  runOp .rdsWortime1 (statusBody (StatusReg.address .wortime1)) s

/-- `RDS WORTIME0` (40_bus_codec.md R149). -/
def execRdsWortime0 (s : State) : Host.Outcome State Fault Refusal :=
  runOp .rdsWortime0 (statusBody (StatusReg.address .wortime0)) s

/-- `RDS PKTSTATUS` (40_bus_codec.md R150). -/
def execRdsPktstatus (s : State) : Host.Outcome State Fault Refusal :=
  runOp .rdsPktstatus (statusBody (StatusReg.address .pktstatus)) s

/-- `RDS VCO_VC_DAC` (40_bus_codec.md R151). -/
def execRdsVcoVcDac (s : State) : Host.Outcome State Fault Refusal :=
  runOp .rdsVcoVcDac (statusBody (StatusReg.address .vcoVcDac)) s

/-- `RDS TXBYTES` (40_bus_codec.md R152). -/
def execRdsTxbytes (s : State) : Host.Outcome State Fault Refusal :=
  runOp .rdsTxbytes (statusBody (StatusReg.address .txbytes)) s

/-- `RDS RXBYTES` (40_bus_codec.md R153). -/
def execRdsRxbytes (s : State) : Host.Outcome State Fault Refusal :=
  runOp .rdsRxbytes (statusBody (StatusReg.address .rxbytes)) s

/-- `RDS RCCTRL1_STATUS` (40_bus_codec.md R154). -/
def execRdsRcctrl1Status (s : State) : Host.Outcome State Fault Refusal :=
  runOp .rdsRcctrl1Status (statusBody (StatusReg.address .rcctrl1Status)) s

/-- `RDS RCCTRL0_STATUS` (40_bus_codec.md R155). -/
def execRdsRcctrl0Status (s : State) : Host.Outcome State Fault Refusal :=
  runOp .rdsRcctrl0Status (statusBody (StatusReg.address .rcctrl0Status)) s

/-- `RDB PATABLE, n` (40_bus_codec.md R156). -/
def execRdbPatable (n : Nat) (s : State) : Host.Outcome State Fault Refusal :=
  runOp (.rdbPatable n) (burstReadBody patableAddr n) s

/-- `WRB PATABLE, v` (40_bus_codec.md R157). -/
def execWrbPatable (v : Bytes) (s : State) : Host.Outcome State Fault Refusal :=
  runOp (.wrbPatable v) (burstWriteBody patableAddr v) s

/-- `RDB RX_FIFO, n` (40_bus_codec.md R158). -/
def execRdbRxFifo (n : Nat) (s : State) : Host.Outcome State Fault Refusal :=
  runOp (.rdbRxFifo n) (burstReadBody fifoAddr n) s

/-- `WRB TX_FIFO, v` (40_bus_codec.md R159). -/
def execWrbTxFifo (v : Bytes) (s : State) : Host.Outcome State Fault Refusal :=
  runOp (.wrbTxFifo v) (burstWriteBody fifoAddr v) s

end Sys2Proof.Machine
end

