-- ==== Sys2Proof/Machine/Fields.lean ====
section
/-! DEFINITION. The register-field accessors (41_register_fields.md R200 to R235). Each operation's body is a definition
of its own, because other operations call it; `exec…` wraps it as a host operation. Every setter checks its arguments
before any transfer (R198). -/

namespace Sys2Proof.Machine

/-- ConfigurationError with the register and the attempted integer (60_exceptions.md R350, R352). -/
def configError (k : ErrorKind) (reg : Addr6) (value : Int) : ErrorInfo :=
  { kind := k, reg := some reg, value := some (.int value) }

/-- Raise ConfigurationError unless an argument is in range (41_register_fields.md R198). -/
def require (p : Prop) [Decidable p] (e : ErrorInfo) : Op Unit := if p then pure () else raise e

/-! ### Frequency word -/

/-- `GetFrequencyWord` (41_register_fields.md R200). -/
def getFrequencyWord : Op Word24 := do
  let v ← readBurst (ConfigReg.address .freq2) 3
  pure (unbe3 v)

def execGetFrequencyWord (s : State) : Host.Outcome State Fault Refusal :=
  runOp .getFrequencyWord (do let w ← getFrequencyWord; pure (.word24 w)) s

/-- `SetFrequencyWord(w)` (41_register_fields.md R201). -/
def setFrequencyWord (w : Int) : Op Unit := do
  require (0 ≤ w ∧ w < 2 ^ 24) (configError .frequencyRange (ConfigReg.address .freq2) w)
  writeBurst (ConfigReg.address .freq2) (be3 (BitVec.ofInt 24 w))

def execSetFrequencyWord (w : Int) (s : State) : Host.Outcome State Fault Refusal :=
  runOp (.setFrequencyWord w) (do setFrequencyWord w; pure .unit) s

/-! ### Symbol rate and filter bandwidth -/

/-- `GetSymbolRateFP` (41_register_fields.md R202): mantissa and exponent. -/
def getSymbolRateFP : Op (Byte × Nat) := do
  let v ← readBurst (ConfigReg.address .mdmcfg4) 2
  pure (byteAt v 1, fieldOf (byteAt v 0) drateE)

def execGetSymbolRateFP (s : State) : Host.Outcome State Fault Refusal :=
  runOp .getSymbolRateFP (do let r ← getSymbolRateFP; pure (.symbolRateFP r.1 r.2)) s

/-- `SetSymbolRateFP(m, e)` (41_register_fields.md R203). -/
def setSymbolRateFP (m e : Int) : Op Unit := do
  require (0 ≤ m ∧ m ≤ 255) (configError .fieldRange (ConfigReg.address .mdmcfg3) m)
  require (0 ≤ e ∧ e ≤ 15) (configError .symbolRateExponent (ConfigReg.address .mdmcfg4) e)
  let b4 ← readSingle (ConfigReg.address .mdmcfg4)
  writeBurst (ConfigReg.address .mdmcfg4) [(b4 &&& 0xF0) ||| BitVec.ofInt 8 e, BitVec.ofInt 8 m]

def execSetSymbolRateFP (m e : Int) (s : State) : Host.Outcome State Fault Refusal :=
  runOp (.setSymbolRateFP m e) (do setSymbolRateFP m e; pure .unit) s

/-- `GetFilterBandwidthFP` (41_register_fields.md R204): mantissa and exponent. -/
def getFilterBandwidthFP : Op (Nat × Nat) := do
  let b ← readSingle (ConfigReg.address .mdmcfg4)
  pure (fieldOf b chanbwM, fieldOf b chanbwE)

def execGetFilterBandwidthFP (s : State) : Host.Outcome State Fault Refusal :=
  runOp .getFilterBandwidthFP (do let r ← getFilterBandwidthFP; pure (.filterBandwidthFP r.1 r.2)) s

/-- `SetFilterBandwidthFP(m, e)` (41_register_fields.md R205). -/
def setFilterBandwidthFP (m e : Int) : Op Unit := do
  require (0 ≤ m ∧ m ≤ 3) (configError .fieldRange (ConfigReg.address .mdmcfg4) m)
  require (0 ≤ e ∧ e ≤ 3) (configError .fieldRange (ConfigReg.address .mdmcfg4) e)
  readModifyWrite (ConfigReg.address .mdmcfg4)
    (fun b => ((b &&& 0x0F) ||| (BitVec.ofInt 8 e <<< 6)) ||| (BitVec.ofInt 8 m <<< 4))

def execSetFilterBandwidthFP (m e : Int) (s : State) : Host.Outcome State Fault Refusal :=
  runOp (.setFilterBandwidthFP m e) (do setFilterBandwidthFP m e; pure .unit) s

/-! ### Modulation format, sync mode, sync word -/

/-- `GetModulationFormat` (41_register_fields.md R206). -/
def getModulationFormat : Op (Reading ModulationFormat) := do
  let k ← fieldGet modFormat
  pure (modulationOfCode k)

def execGetModulationFormat (s : State) : Host.Outcome State Fault Refusal :=
  runOp .getModulationFormat (do let m ← getModulationFormat; pure (.modulationFormat m)) s

/-- `SetModulationFormat(f)` (41_register_fields.md R207). -/
def setModulationFormat (f : ModulationFormat) : Op Unit := fieldSet modFormat (modulationCode f)

def execSetModulationFormat (f : ModulationFormat) (s : State) : Host.Outcome State Fault Refusal :=
  runOp (.setModulationFormat f) (do setModulationFormat f; pure .unit) s

/-- `GetSyncMode` (41_register_fields.md R208): the mode and the carrier-sense bit. -/
def getSyncMode : Op (Reading SyncMode × Bool) := do
  let b ← readSingle (ConfigReg.address .mdmcfg2)
  pure (syncModeOfCode (fieldOf b syncModeField), decide (fieldOf b carrierSense = 1))

def execGetSyncMode (s : State) : Host.Outcome State Fault Refusal :=
  runOp .getSyncMode (do let r ← getSyncMode; pure (.syncMode r.1 r.2)) s

/-- The byte `SetSyncMode` writes (41_register_fields.md R209). -/
def syncModeByte (mode : SyncMode) (cs : Option Bool) (b : Byte) : Byte :=
  let b' := (b &&& 0b11111100) ||| BitVec.ofNat 8 (syncModeCode mode)
  match cs with
  | some true => b' ||| 0b00000100
  | some false => b' &&& 0b11111011
  | none => b'

/-- `SetSyncMode(mode, cs)` (41_register_fields.md R209). -/
def setSyncMode (mode : SyncMode) (cs : Option Bool) : Op Unit :=
  readModifyWrite (ConfigReg.address .mdmcfg2) (syncModeByte mode cs)

def execSetSyncMode (mode : SyncMode) (cs : Option Bool) (s : State) : Host.Outcome State Fault Refusal :=
  runOp (.setSyncMode mode cs) (do setSyncMode mode cs; pure .unit) s

/-- `GetSyncWord` (41_register_fields.md R210). -/
def getSyncWord : Op Bytes := readBurst (ConfigReg.address .sync1) 2

def execGetSyncWord (s : State) : Host.Outcome State Fault Refusal :=
  runOp .getSyncWord (do let v ← getSyncWord; pure (.bytes v)) s

/-- `SetSyncWord(v)` (41_register_fields.md R211). -/
def setSyncWord (v : Bytes) : Op Unit := do
  require (v.length = 2) (configError .syncWordLength (ConfigReg.address .sync1) v.length)
  writeBurst (ConfigReg.address .sync1) v

def execSetSyncWord (v : Bytes) (s : State) : Host.Outcome State Fault Refusal :=
  runOp (.setSyncWord v) (do setSyncWord v; pure .unit) s

/-! ### Preamble and packet length -/

/-- `GetPreambleLength` (41_register_fields.md R212). -/
def getPreambleLength : Op Nat := do
  let k ← fieldGet numPreamble
  pure (preambleOfCode k)

def execGetPreambleLength (s : State) : Host.Outcome State Fault Refusal :=
  runOp .getPreambleLength (do let n ← getPreambleLength; pure (.preambleLength n)) s

/-- `SetPreambleLength(nbytes)` (41_register_fields.md R213). -/
def setPreambleLength (nbytes : Int) : Op Unit :=
  match preambleCode? nbytes with
  | some k => fieldSet numPreamble k
  | none => raise (configError .preambleLength (ConfigReg.address .mdmcfg1) nbytes)

def execSetPreambleLength (nbytes : Int) (s : State) : Host.Outcome State Fault Refusal :=
  runOp (.setPreambleLength nbytes) (do setPreambleLength nbytes; pure .unit) s

/-- `GetPacketLength` (41_register_fields.md R214). -/
def getPacketLength : Op Byte := readSingle (ConfigReg.address .pktlen)

def execGetPacketLength (s : State) : Host.Outcome State Fault Refusal :=
  runOp .getPacketLength (do let b ← getPacketLength; pure (.byte b)) s

/-- `SetPacketLength(n)` (41_register_fields.md R215). -/
def setPacketLength (n : Int) : Op Unit := do
  require (1 ≤ n ∧ n ≤ 255) (configError .packetLength (ConfigReg.address .pktlen) n)
  writeBurst (ConfigReg.address .pktlen) [BitVec.ofInt 8 n]

def execSetPacketLength (n : Int) (s : State) : Host.Outcome State Fault Refusal :=
  runOp (.setPacketLength n) (do setPacketLength n; pure .unit) s

/-- `GetPacketLengthMode` (41_register_fields.md R216). -/
def getPacketLengthMode : Op (Reading PacketLengthMode) := do
  let k ← fieldGet lengthConfig
  pure (packetLengthModeOfCode k)

def execGetPacketLengthMode (s : State) : Host.Outcome State Fault Refusal :=
  runOp .getPacketLengthMode (do let m ← getPacketLengthMode; pure (.packetLengthMode m)) s

/-- `SetPacketLengthMode(mode)` (41_register_fields.md R217). -/
def setPacketLengthMode (mode : PacketLengthMode) : Op Unit := fieldSet lengthConfig (packetLengthModeCode mode)

def execSetPacketLengthMode (mode : PacketLengthMode) (s : State) : Host.Outcome State Fault Refusal :=
  runOp (.setPacketLengthMode mode) (do setPacketLengthMode mode; pure .unit) s

/-! ### One-bit fields -/

/-- A one-bit getter: `FieldGet(F) = 1`. -/
def flagGet (f : Field) : Op Value := do
  let k ← fieldGet f
  pure (.flag (decide (k = 1)))

/-- A one-bit setter. -/
def flagSet (f : Field) (v : Nat) : Op Value := do
  fieldSet f v
  pure .unit

/-- `GetChecksumEnabled` (41_register_fields.md R218). -/
def execGetChecksumEnabled (s : State) : Host.Outcome State Fault Refusal :=
  runOp .getChecksumEnabled (flagGet crcEn) s

/-- `EnableChecksum` (41_register_fields.md R219). -/
def execEnableChecksum (s : State) : Host.Outcome State Fault Refusal :=
  runOp .enableChecksum (flagSet crcEn 1) s

/-- `DisableChecksum` (41_register_fields.md R220). -/
def execDisableChecksum (s : State) : Host.Outcome State Fault Refusal :=
  runOp .disableChecksum (flagSet crcEn 0) s

/-- `GetDataWhiteningEnabled` (41_register_fields.md R221). -/
def execGetDataWhiteningEnabled (s : State) : Host.Outcome State Fault Refusal :=
  runOp .getDataWhiteningEnabled (flagGet whiteData) s

/-- `EnableDataWhitening` (41_register_fields.md R222). -/
def execEnableDataWhitening (s : State) : Host.Outcome State Fault Refusal :=
  runOp .enableDataWhitening (flagSet whiteData 1) s

/-- `DisableDataWhitening`, as `Open` calls it too (41_register_fields.md R223). -/
def disableDataWhitening : Op Unit := fieldSet whiteData 0

def execDisableDataWhitening (s : State) : Host.Outcome State Fault Refusal :=
  runOp .disableDataWhitening (do disableDataWhitening; pure .unit) s

/-- `GetManchesterEnabled` (41_register_fields.md R226). -/
def execGetManchesterEnabled (s : State) : Host.Outcome State Fault Refusal :=
  runOp .getManchesterEnabled (flagGet manchesterEn) s

/-- `EnableManchester` (41_register_fields.md R227). -/
def execEnableManchester (s : State) : Host.Outcome State Fault Refusal :=
  runOp .enableManchester (flagSet manchesterEn 1) s

/-- `DisableManchester` (41_register_fields.md R228). -/
def execDisableManchester (s : State) : Host.Outcome State Fault Refusal :=
  runOp .disableManchester (flagSet manchesterEn 0) s

/-! ### Transceive mode -/

/-- `GetTransceiveMode` (41_register_fields.md R224). -/
def getTransceiveMode : Op (Reading TransceiveMode) := do
  let k ← fieldGet pktFormat
  pure (transceiveOfCode k)

def execGetTransceiveMode (s : State) : Host.Outcome State Fault Refusal :=
  runOp .getTransceiveMode (do let t ← getTransceiveMode; pure (.transceiveMode t)) s

/-- `SetTransceiveMode(t)` (41_register_fields.md R225). -/
def setTransceiveMode (t : TransceiveMode) : Op Unit := fieldSet pktFormat (transceiveCode t)

def execSetTransceiveMode (t : TransceiveMode) (s : State) : Host.Outcome State Fault Refusal :=
  runOp (.setTransceiveMode t) (do setTransceiveMode t; pure .unit) s

/-! ### Output power -/

/-- `GetPAIndex` (41_register_fields.md R229). -/
def getPAIndex : Op Nat := fieldGet paPower

def execGetPAIndex (s : State) : Host.Outcome State Fault Refusal :=
  runOp .getPAIndex (do let k ← getPAIndex; pure (.field k)) s

/-- `SetPAIndex(i)` (41_register_fields.md R230). -/
def setPAIndex (i : Int) : Op Unit := do
  require (0 ≤ i ∧ i ≤ 7) (configError .paIndex (ConfigReg.address .frend0) i)
  fieldSet paPower i.toNat

def execSetPAIndex (i : Int) (s : State) : Host.Outcome State Fault Refusal :=
  runOp (.setPAIndex i) (do setPAIndex i; pure .unit) s

/-- `GetPatable` (41_register_fields.md R231). -/
def execGetPatable (s : State) : Host.Outcome State Fault Refusal :=
  runOp .getPatable (do let v ← readPatable patableEntries; pure (.bytes v)) s

/-- `GetOutputPower` (41_register_fields.md R232): the entries 0 to the index. -/
def getOutputPower : Op Bytes := do
  let t ← readPatable patableEntries
  let i ← fieldGet paPower
  pure (t.take (i + 1))

def execGetOutputPower (s : State) : Host.Outcome State Fault Refusal :=
  runOp .getOutputPower (do let v ← getOutputPower; pure (.bytes v)) s

/-- The first value outside 0..255 with its index, counting from `i` (41_register_fields.md R233). -/
def firstBadValue : Nat → List Int → Option (Nat × Int)
  | _, [] => none
  | i, v :: vs => if 0 ≤ v ∧ v ≤ 255 then firstBadValue (i + 1) vs else some (i, v)

/-- `SetOutputPower(values)` (41_register_fields.md R233). -/
def setOutputPower (values : List Int) : Op Unit := do
  require (1 ≤ values.length ∧ values.length ≤ 8)
    (configError .patableLength patableAddr values.length)
  match firstBadValue 0 values with
  | some (i, v) => raise { kind := .patableValue, reg := some patableAddr, value := some (.pair i v) }
  | none =>
      writePatable (values.map (BitVec.ofInt 8))
      fieldSet paPower (values.length - 1)

def execSetOutputPower (values : List Int) (s : State) : Host.Outcome State Fault Refusal :=
  runOp (.setOutputPower values) (do setOutputPower values; pure .unit) s

/-! ### Calibration on wake -/

/-- `GetCalibrationOnWake` (41_register_fields.md R234). -/
def getCalibrationOnWake : Op Nat := fieldGet fsAutocal

def execGetCalibrationOnWake (s : State) : Host.Outcome State Fault Refusal :=
  runOp .getCalibrationOnWake (do let k ← getCalibrationOnWake; pure (.field k)) s

/-- `SetCalibrationOnWake(v)` (41_register_fields.md R235). -/
def setCalibrationOnWake (v : Int) : Op Unit := do
  require (0 ≤ v ∧ v ≤ 3) (configError .fieldRange (ConfigReg.address .mcsm0) v)
  fieldSet fsAutocal v.toNat

def execSetCalibrationOnWake (v : Int) (s : State) : Host.Outcome State Fault Refusal :=
  runOp (.setCalibrationOnWake v) (do setCalibrationOnWake v; pure .unit) s

end Sys2Proof.Machine
end

