-- ==== Sys2Proof/Machine/Conversions.lean ====
section
/-! DEFINITION. The conversions between field words and physical units, over exact rationals (42_field_conversions.md
R250 to R254; 00_scope.md R6, R11), and the accessors in physical units (R260 to R265). -/

namespace Sys2Proof.Machine

/-! ### Arithmetic -/

/-- `round(q)`: nearest integer, ties to even (00_scope.md R11). -/
def roundHalfEven (q : Rat) : Int :=
  let f := q.floor
  let r := q - f
  if r < 1 / 2 then f
  else if 1 / 2 < r then f + 1
  else if f % 2 = 0 then f
  else f + 1

/-- `2 ^ e` for an integer `e`. -/
def pow2 : Int → Rat
  | .ofNat n => ((2 ^ n : Nat) : Rat)
  | .negSucc n => 1 / ((2 ^ (n + 1) : Nat) : Rat)

/-- `flog2(q)` for q > 0: the integer e with 2^e ≤ q < 2^(e+1) (00_scope.md R11). The bit lengths of numerator and
denominator leave two candidates. -/
def flog2 (q : Rat) : Int :=
  let e : Int := (Nat.log2 q.num.toNat : Int) - (Nat.log2 q.den : Int)
  if pow2 e ≤ q then e else e - 1

/-- `C.FREQ_FACTOR = C.CRYSTAL_HZ / 2^16` (00_scope.md R6). -/
def freqFactor (c : Config) : Rat := (c.crystalHz : Rat) / 65536

theorem freqFactor_nonneg (c : Config) : 0 ≤ freqFactor c := by
  unfold freqFactor; positivity

theorem pow2_nonneg (e : Int) : 0 ≤ pow2 e := by
  cases e <;> simp only [pow2] <;> positivity

/-! ### Conversions -/

/-- `WordToHz(w)` (42_field_conversions.md R250). -/
def wordToHz (c : Config) (w : Word24) : Hz :=
  ⟨(w.toNat : Rat) * freqFactor c, mul_nonneg (Nat.cast_nonneg _) (freqFactor_nonneg c)⟩

/-- `HzToWord(hz)` (42_field_conversions.md R251). -/
def hzToWord (c : Config) (hz : Hz) : Int := roundHalfEven (hz.val / freqFactor c)

/-- `FpToBaud(m, e)` (42_field_conversions.md R252). -/
def fpToBaud (c : Config) (m : Byte) (e : Nat) : Baud :=
  ⟨((256 + m.toNat : Nat) : Rat) * pow2 e * c.crystalHz / 268435456,
    div_nonneg (mul_nonneg (mul_nonneg (Nat.cast_nonneg _) (pow2_nonneg _)) (Nat.cast_nonneg _)) (by norm_num)⟩

/-- `BaudToFp(baud)`, for a rate above 0 (42_field_conversions.md R253): mantissa and exponent, after the carry. -/
def baudToFp (c : Config) (baud : Rat) : Int × Int :=
  let e := flog2 (baud / c.crystalHz) + 20
  let m := roundHalfEven (baud * 268435456 / c.crystalHz / pow2 e - 256)
  if m = 256 then (0, e + 1) else (m, e)

/-- `FilterBwHz(m, e)` (42_field_conversions.md R254). -/
def filterBwHz (c : Config) (m e : Nat) : Hz :=
  ⟨(c.crystalHz : Rat) / ((8 * (4 + m) * 2 ^ e : Nat) : Rat), div_nonneg (Nat.cast_nonneg _) (Nat.cast_nonneg _)⟩

/-! ### Accessors -/

/-- The frequency below which `SetBaseFrequencyHz` warns (42_field_conversions.md R262). -/
def warnBelow (c : Config) : Rat := (c.txFloorHz : Rat) - (c.txFloorToleranceHz : Rat)

/-- `SetBaseFrequencyHz(hz)` (42_field_conversions.md R260, R262). -/
def setBaseFrequencyHz (hz : Hz) : Op Unit := do
  let c ← getCfg
  require (hzToWord c hz ≤ 0xFFFFFF)
    { kind := .frequencyRange, reg := some (ConfigReg.address .freq2), value := some (.rat hz.val) }
  if hz.val < warnBelow c then warn (.frequencyBelowTxFloor hz) else pure ()
  writeBurst (ConfigReg.address .freq2) (be3 (BitVec.ofInt 24 (hzToWord c hz)))

def execSetBaseFrequencyHz (hz : Hz) (s : State) : Host.Outcome State Fault Refusal :=
  runOp (.setBaseFrequencyHz hz) (do setBaseFrequencyHz hz; pure .unit) s

/-- `GetBaseFrequencyHz` (42_field_conversions.md R261). -/
def getBaseFrequencyHz : Op Hz := do
  let w ← getFrequencyWord
  let c ← getCfg
  pure (wordToHz c w)

def execGetBaseFrequencyHz (s : State) : Host.Outcome State Fault Refusal :=
  runOp .getBaseFrequencyHz (do let q ← getBaseFrequencyHz; pure (.hz q)) s

/-- `SetSymbolRateBaud(baud)` (42_field_conversions.md R263): the exponent is checked after the carry. -/
def setSymbolRateBaud (baud : Baud) : Op Unit := do
  let c ← getCfg
  require (baud.val ≠ 0)
    { kind := .symbolRateNonpositive, reg := some (ConfigReg.address .mdmcfg4), value := some (.rat baud.val) }
  require (0 ≤ (baudToFp c baud.val).2 ∧ (baudToFp c baud.val).2 ≤ 15)
    { kind := .symbolRateExponent, reg := some (ConfigReg.address .mdmcfg4), value := some (.rat baud.val) }
  setSymbolRateFP (baudToFp c baud.val).1 (baudToFp c baud.val).2

def execSetSymbolRateBaud (baud : Baud) (s : State) : Host.Outcome State Fault Refusal :=
  runOp (.setSymbolRateBaud baud) (do setSymbolRateBaud baud; pure .unit) s

/-- `GetSymbolRateBaud` (42_field_conversions.md R264). -/
def getSymbolRateBaud : Op Baud := do
  let r ← getSymbolRateFP
  let c ← getCfg
  pure (fpToBaud c r.1 r.2)

def execGetSymbolRateBaud (s : State) : Host.Outcome State Fault Refusal :=
  runOp .getSymbolRateBaud (do let q ← getSymbolRateBaud; pure (.baud q)) s

/-- `GetFilterBandwidthHz` (42_field_conversions.md R265). -/
def getFilterBandwidthHz : Op Hz := do
  let r ← getFilterBandwidthFP
  let c ← getCfg
  pure (filterBwHz c r.1 r.2)

def execGetFilterBandwidthHz (s : State) : Host.Outcome State Fault Refusal :=
  runOp .getFilterBandwidthHz (do let q ← getFilterBandwidthHz; pure (.hz q)) s

end Sys2Proof.Machine
end

