-- ==== Sys2Proof/Machine/Packet.lean ====
section
/-! DEFINITION. The packet engine (44_packet_engine.md R310 to R331): Transmit, Receive, the parsing of a packet, and the
asynchronous-transmit scope. -/

namespace Sys2Proof.Machine

/-! ### Transmit -/

/-- ConfigurationError of a payload length against PKTLEN (44_packet_engine.md R311): `value = (L, max)`. -/
def payloadError (k : ErrorKind) (len : Nat) (max : Byte) : ErrorInfo :=
  { kind := k, reg := some (ConfigReg.address .pktlen), value := some (.pair len max.toNat) }

/-- The frame written to the TX FIFO (44_packet_engine.md R312), or the length or mode error of R311. -/
def txFrame (mode : Reading PacketLengthMode) (max : Byte) (payload : Bytes) : Except ErrorInfo Bytes :=
  match mode with
  | .known .variable =>
      if payload.length ≤ max.toNat then .ok (BitVec.ofNat 8 payload.length :: payload)
      else .error (payloadError .payloadTooLong payload.length max)
  | .known .fixed =>
      if payload.length = max.toNat then .ok payload
      else .error (payloadError .payloadLengthMismatch payload.length max)
  | .unknown k =>
      .error (configError .unsupportedPacketLengthMode (ConfigReg.address .pktctrl0) k)

/-- `raise` of a check that gives the value or the error. -/
def orRaise {α : Type} : Except ErrorInfo α → Op α
  | .ok a => pure a
  | .error e => raise e

/-- Read MARCSTATE and raise a StateError unless it is IDLE (43_lifecycle.md R285; 44_packet_engine.md R311). -/
def requireIdle (k : ErrorKind) : Op Unit := do
  let m ← readStatus .marcstate
  require (isIdle m = true) { kind := k, reg := some (StatusReg.address .marcstate), actual := some (.byte m) }

/-- `Transmit(payload)` (44_packet_engine.md R311). -/
def transmit (payload : Bytes) : Op Unit := do
  require (payload.length ≠ 0) (configError .emptyPayload fifoAddr 0)
  let mode ← getPacketLengthMode
  let max ← getPacketLength
  let frame ← orRaise (txFrame mode max payload)
  requireIdle .notIdleTx
  strobe .sftx
  writeTxFifo frame
  strobe .stx

def execTransmit (payload : Bytes) (s : State) : Host.Outcome State Fault Refusal :=
  runOp (.transmit payload) (do transmit payload; pure .unit) s

/-! ### Receive -/

/-- `RxByteCount()` (44_packet_engine.md R321). -/
def rxByteCount : Op Nat := do
  let c ← readStatus .rxbytes
  pure (rxCount c)

/-- `ParsePacket(buf)`, for two bytes or more (44_packet_engine.md R322). -/
def parsePacket (buf : Bytes) : ReceivedPacket where
  payload := buf.take (buf.length - 2)
  rssiIndex := byteAt buf (buf.length - 2)
  checksumValid := (byteAt buf (buf.length - 1)).getLsbD 7
  linkQualityIndicator := (byteAt buf (buf.length - 1)).setWidth 7

/-- `RssiDbm(i)` (44_packet_engine.md R323). -/
def rssiDbm (i : Byte) : DBm :=
  if i.toNat ≤ 127 then (i.toNat : Rat) / 2 - 74 else ((i.toNat : Rat) - 256) / 2 - 74

/-- The part of `Receive` after an edge (44_packet_engine.md R320). -/
def drainPacket : Op Value := do
  let n ← rxByteCount
  if n = 0 then pure .noPacket
  else if n = 1 then
    raise { kind := .shortRx, reg := some (StatusReg.address .rxbytes), actual := some (.int n) }
  else do
    let buf ← readRxFifo n
    pure (.packet (parsePacket buf))

/-- `Receive(t)` (44_packet_engine.md R320). -/
def receive (t : Timeout) : Op Value := do
  strobe .srx
  let edge ← gpioWaitRising t
  if edge then drainPacket
  else do
    strobe .sidle
    pure .noPacket

def execReceive (t : Timeout) (s : State) : Host.Outcome State Fault Refusal :=
  runOp (.receive t) (receive t) s

/-! ### Asynchronous transmission -/

/-- `AsyncTxBegin` (44_packet_engine.md R330). -/
def asyncTxBegin : Op Value := do
  setTransceiveMode .asynchronousSerial
  strobe .stx
  setLife .asyncTx
  pure .unit

def execAsyncTxBegin (s : State) : Host.Outcome State Fault Refusal :=
  runOp .asyncTxBegin asyncTxBegin s

/-- `AsyncEndSequence` (44_packet_engine.md R331). -/
def asyncEndSequence : Op Unit := do
  strobe .sidle
  setTransceiveMode .fifo

/-- `AsyncTxEnd` (44_packet_engine.md R331). -/
def asyncTxEnd : Op Value := do
  asyncEndSequence
  setLife .ready
  pure .unit

def execAsyncTxEnd (s : State) : Host.Outcome State Fault Refusal :=
  runOp .asyncTxEnd asyncTxEnd s

end Sys2Proof.Machine
end

