-- ==== Sys2Proof/Machine/Lifecycle.lean ====
section
/-! DEFINITION. The lifecycle operations (43_lifecycle.md R280 to R288): Open, Close, GetMarcstate. -/

namespace Sys2Proof.Machine

/-- `VerifyIdentity()` (43_lifecycle.md R283). -/
def verifyIdentity : Op Unit := do
  let c ← getCfg
  let p ← readStatus .partnum
  require (p = c.supportedPartnum)
    { kind := .partnum, reg := some (StatusReg.address .partnum),
      expected := some (.set [c.supportedPartnum]), actual := some (.byte p) }
  let v ← readStatus .version
  require (v ∈ c.versionWhitelist)
    { kind := .version, reg := some (StatusReg.address .version),
      expected := some (.set c.versionWhitelist), actual := some (.byte v) }

/-- `ConfigureDefaults()` (43_lifecycle.md R284). -/
def configureDefaults : Op Unit := do
  setModulationFormat .askOok
  setPAIndex 1
  disableDataWhitening
  setCalibrationOnWake 0b01

/-- `Open()` (43_lifecycle.md R280). Opening the SPI handle is the collaborator's and leaves no event (R281). -/
def openBlock : Op Value := do
  strobe .sres
  verifyIdentity
  configureDefaults
  requireIdle .notIdleAfterConfig
  setLife .ready
  pure .unit

def execOpenOp (s : State) : Host.Outcome State Fault Refusal :=
  runOp .openOp openBlock s

/-- `Close()` (43_lifecycle.md R286). An error of the end sequence leaves CLOSED too (60_exceptions.md R360). -/
def closeBlock : Op Value := do
  let l ← getLife
  match l with
  | .closed => pure .unit
  | .ready => do
      setLife .closed
      pure .unit
  | .faulted => do
      setLife .closed
      pure .unit
  | .asyncTx => do
      asyncEndSequence
      setLife .closed
      pure .unit

def execCloseOp (s : State) : Host.Outcome State Fault Refusal :=
  runOp .closeOp closeBlock s

/-- `GetMarcstate()` (43_lifecycle.md R287): the raw byte and the state of its bits 4:0. -/
def execGetMarcstate (s : State) : Host.Outcome State Fault Refusal :=
  runOp .getMarcstate
    (do let m ← readStatus .marcstate; pure (.marcstate m (marcOfCode (marcCode m)))) s

end Sys2Proof.Machine
end

