-- ==== Sys2Proof/Machine/Dispatch.lean ====
section
/-! DEFINITION. One arm per constructor of Instr. -/

namespace Sys2Proof.Machine

def exec (i : Instr) (s : State) : Host.Outcome State Fault Refusal :=
  match i with
  | .rd1 a => Sys2Proof.Machine.execRd1 a s
  | .rdb a n => Sys2Proof.Machine.execRdb a n s
  | .rds a => Sys2Proof.Machine.execRds a s
  | .stb a => Sys2Proof.Machine.execStb a s
  | .wrb a v => Sys2Proof.Machine.execWrb a v s
  | .resetOp => Sys2Proof.Machine.execResetOp s
  | .stbSres => Sys2Proof.Machine.execStbSres s
  | .stbSfstxon => Sys2Proof.Machine.execStbSfstxon s
  | .stbSxoff => Sys2Proof.Machine.execStbSxoff s
  | .stbScal => Sys2Proof.Machine.execStbScal s
  | .stbSrx => Sys2Proof.Machine.execStbSrx s
  | .stbStx => Sys2Proof.Machine.execStbStx s
  | .stbSidle => Sys2Proof.Machine.execStbSidle s
  | .stbSwor => Sys2Proof.Machine.execStbSwor s
  | .stbSpwd => Sys2Proof.Machine.execStbSpwd s
  | .stbSfrx => Sys2Proof.Machine.execStbSfrx s
  | .stbSftx => Sys2Proof.Machine.execStbSftx s
  | .stbSworrst => Sys2Proof.Machine.execStbSworrst s
  | .stbSnop => Sys2Proof.Machine.execStbSnop s
  | .rdsPartnum => Sys2Proof.Machine.execRdsPartnum s
  | .rdsVersion => Sys2Proof.Machine.execRdsVersion s
  | .rdsFreqest => Sys2Proof.Machine.execRdsFreqest s
  | .rdsLqi => Sys2Proof.Machine.execRdsLqi s
  | .rdsRssi => Sys2Proof.Machine.execRdsRssi s
  | .rdsMarcstate => Sys2Proof.Machine.execRdsMarcstate s
  | .rdsWortime1 => Sys2Proof.Machine.execRdsWortime1 s
  | .rdsWortime0 => Sys2Proof.Machine.execRdsWortime0 s
  | .rdsPktstatus => Sys2Proof.Machine.execRdsPktstatus s
  | .rdsVcoVcDac => Sys2Proof.Machine.execRdsVcoVcDac s
  | .rdsTxbytes => Sys2Proof.Machine.execRdsTxbytes s
  | .rdsRxbytes => Sys2Proof.Machine.execRdsRxbytes s
  | .rdsRcctrl1Status => Sys2Proof.Machine.execRdsRcctrl1Status s
  | .rdsRcctrl0Status => Sys2Proof.Machine.execRdsRcctrl0Status s
  | .rdbPatable n => Sys2Proof.Machine.execRdbPatable n s
  | .wrbPatable v => Sys2Proof.Machine.execWrbPatable v s
  | .rdbRxFifo n => Sys2Proof.Machine.execRdbRxFifo n s
  | .wrbTxFifo v => Sys2Proof.Machine.execWrbTxFifo v s
  | .getFrequencyWord => Sys2Proof.Machine.execGetFrequencyWord s
  | .setFrequencyWord w => Sys2Proof.Machine.execSetFrequencyWord w s
  | .getSymbolRateFP => Sys2Proof.Machine.execGetSymbolRateFP s
  | .setSymbolRateFP m e => Sys2Proof.Machine.execSetSymbolRateFP m e s
  | .getFilterBandwidthFP => Sys2Proof.Machine.execGetFilterBandwidthFP s
  | .setFilterBandwidthFP m e => Sys2Proof.Machine.execSetFilterBandwidthFP m e s
  | .getModulationFormat => Sys2Proof.Machine.execGetModulationFormat s
  | .setModulationFormat f => Sys2Proof.Machine.execSetModulationFormat f s
  | .getSyncMode => Sys2Proof.Machine.execGetSyncMode s
  | .setSyncMode mode cs => Sys2Proof.Machine.execSetSyncMode mode cs s
  | .getSyncWord => Sys2Proof.Machine.execGetSyncWord s
  | .setSyncWord v => Sys2Proof.Machine.execSetSyncWord v s
  | .getPreambleLength => Sys2Proof.Machine.execGetPreambleLength s
  | .setPreambleLength nbytes => Sys2Proof.Machine.execSetPreambleLength nbytes s
  | .getPacketLength => Sys2Proof.Machine.execGetPacketLength s
  | .setPacketLength n => Sys2Proof.Machine.execSetPacketLength n s
  | .getPacketLengthMode => Sys2Proof.Machine.execGetPacketLengthMode s
  | .setPacketLengthMode mode => Sys2Proof.Machine.execSetPacketLengthMode mode s
  | .getChecksumEnabled => Sys2Proof.Machine.execGetChecksumEnabled s
  | .enableChecksum => Sys2Proof.Machine.execEnableChecksum s
  | .disableChecksum => Sys2Proof.Machine.execDisableChecksum s
  | .getDataWhiteningEnabled => Sys2Proof.Machine.execGetDataWhiteningEnabled s
  | .enableDataWhitening => Sys2Proof.Machine.execEnableDataWhitening s
  | .disableDataWhitening => Sys2Proof.Machine.execDisableDataWhitening s
  | .getTransceiveMode => Sys2Proof.Machine.execGetTransceiveMode s
  | .setTransceiveMode t => Sys2Proof.Machine.execSetTransceiveMode t s
  | .getManchesterEnabled => Sys2Proof.Machine.execGetManchesterEnabled s
  | .enableManchester => Sys2Proof.Machine.execEnableManchester s
  | .disableManchester => Sys2Proof.Machine.execDisableManchester s
  | .getPAIndex => Sys2Proof.Machine.execGetPAIndex s
  | .setPAIndex k => Sys2Proof.Machine.execSetPAIndex k s
  | .getPatable => Sys2Proof.Machine.execGetPatable s
  | .getOutputPower => Sys2Proof.Machine.execGetOutputPower s
  | .setOutputPower values => Sys2Proof.Machine.execSetOutputPower values s
  | .getCalibrationOnWake => Sys2Proof.Machine.execGetCalibrationOnWake s
  | .setCalibrationOnWake v => Sys2Proof.Machine.execSetCalibrationOnWake v s
  | .setBaseFrequencyHz hz => Sys2Proof.Machine.execSetBaseFrequencyHz hz s
  | .getBaseFrequencyHz => Sys2Proof.Machine.execGetBaseFrequencyHz s
  | .setSymbolRateBaud baud => Sys2Proof.Machine.execSetSymbolRateBaud baud s
  | .getSymbolRateBaud => Sys2Proof.Machine.execGetSymbolRateBaud s
  | .getFilterBandwidthHz => Sys2Proof.Machine.execGetFilterBandwidthHz s
  | .openOp => Sys2Proof.Machine.execOpenOp s
  | .closeOp => Sys2Proof.Machine.execCloseOp s
  | .getMarcstate => Sys2Proof.Machine.execGetMarcstate s
  | .transmit payload => Sys2Proof.Machine.execTransmit payload s
  | .receive t => Sys2Proof.Machine.execReceive t s
  | .asyncTxBegin => Sys2Proof.Machine.execAsyncTxBegin s
  | .asyncTxEnd => Sys2Proof.Machine.execAsyncTxEnd s

end Sys2Proof.Machine
end

