-- ==== Sys2Proof/Machine/Step.lean ====
section
/-! DEFINITION. One step: one whole host operation (10_state.md R20, R27). -/

namespace Sys2Proof.Machine

/-- Run a call: the instruction it stands for, or, for a raw frame that is none, the refusal of 30_encoding.md R90. -/
def runCall (c : HostCall) (s : State) : Host.Outcome State Fault Refusal :=
  match c, decodeCall c with
  | _, .ok i => exec i s
  | .raw h data, .error _ => .next (refuseRaw h data s)
  | .op i, .error _ => exec i s

/-- The index moves past the call whatever the outcome (10_state.md R27). -/
def advance : Host.Outcome State Fault Refusal → Host.Outcome State Fault Refusal
  | .next s => .next { s with pc := s.pc + 1 }
  | .fault f => .fault f
  | .refused r => .refused r

/-- One step: the next call of the host's program, to completion. Without a call the block has no step. -/
def step (s : State) : Host.Outcome State Fault Refusal :=
  match s.fetch with
  | none => .refused .noHostCall
  | some c => advance (runCall c s)

/-- `s` with a raw transaction placed where step fetches its next call: the frame of a table word (log entries 1, 6). -/
def State.withFetchWord (s : State) (nbits w : Nat) : State :=
  { s with program := putCall s.program s.pc (.raw (wordFrame nbits w).1 (wordFrame nbits w).2) }

end Sys2Proof.Machine
end

