-- ==== Sys2Proof/Machine/Flags.lean ====
section
/-! DEFINITION. The block has no flags of its own (10_state.md R28). What it observes is the chip status byte: its
fields (30_encoding.md R85 to R87), logged and never branched on (70_reset_and_hazards.md R407). -/

namespace Sys2Proof.Machine

/-- The chip's coarse state, the STATE field's codes (30_encoding.md R86). -/
inductive ChipState
  | idle | rx | tx | fstxon | calibrate | settling | rxfifoOverflow | txfifoUnderflow
  deriving DecidableEq, Repr

/-- CHIP_RDYn, bit 7: set means not ready (30_encoding.md R85). -/
def chipNotReady (b : Byte) : Bool := b.getLsbD 7

/-- STATE, bits 6:4 (30_encoding.md R85, R86). -/
def chipState (b : Byte) : ChipState :=
  match (b.toNat >>> 4) % 8 with
  | 0 => .idle
  | 1 => .rx
  | 2 => .tx
  | 3 => .fstxon
  | 4 => .calibrate
  | 5 => .settling
  | 6 => .rxfifoOverflow
  | _ => .txfifoUnderflow

/-- FIFO_BYTES_AVAILABLE, bits 3:0 (30_encoding.md R85, R87). -/
def fifoBytesAvailable (b : Byte) : Nat := b.toNat % 16

end Sys2Proof.Machine
end

