-- ==== Sys2Proof/Safety.lean ====
section
/-! DEFINITION. What claims about a run are stated in: the premise of 10_state.md R23, the reading of the trace (00_scope.md
R14; 10_state.md R24), and the invariants of the machine. -/

namespace Sys2Proof.Machine

/-- The premise of every claim about a program (10_state.md R23): nothing was refused. -/
def State.Meaningful (s : State) : Prop := s.refused = false

/-- The errors a trace logs, in order (10_state.md R24). -/
def errorsIn (tr : List Event) : List ErrorRecord :=
  tr.filterMap fun
    | .errorRaised e => some e
    | _ => none

/-- An OpEnd event with a refusal (10_state.md R24). -/
def isRefusal : Event → Bool
  | .opEnd (.refused _) => true
  | _ => false

/-- The chip status bytes a trace logs, in order (10_state.md R24). -/
def statusesIn (tr : List Event) : List Byte :=
  tr.filterMap fun
    | .statusObserved b => some b
    | _ => none

/-- The frames a trace transmits, in order (00_scope.md R14). -/
def framesIn (tr : List Event) : List Bytes :=
  tr.filterMap fun
    | .xfer tx _ => some tx
    | _ => none

/-- The events of an operation: what a later state's trace has beyond an earlier one's. -/
def newEvents (s t : State) : List Event := t.trace.drop s.trace.length

/-- A frame that reads: its R/W bit is set (30_encoding.md R81). -/
def isReadFrame (tx : Bytes) : Bool := (byteAt tx 0).getLsbD 7

/-- The block's records say what its trace says: the errors raised, the refusals, the last status byte (10_state.md R22
to R24). -/
def LogsAgree (s : State) : Prop :=
  s.faults = errorsIn s.trace ∧ s.refused = s.trace.any isRefusal ∧ s.lastStatus = (statusesIn s.trace).getLast?

/-- The reference responder's memories are in canonical form. -/
def EnvCanonical (s : State) : Prop := s.env.wf = true

/-! ### What an operation does to the outside world -/

/-- One thing an operation does, with the answer it gets (00_scope.md R13): a transfer whose response has the expected
length, a wait, or a soft warning. -/
inductive Interaction
  | spi  (tx rx : Bytes)
  | gpio (t : Timeout) (r : Bool)
  | note (w : Warning)
  deriving DecidableEq, Repr

/-- The warnings of a burst write under ADVISORY, one per echo byte that differs from the status byte (40_bus_codec.md
R121). -/
def echoWarnings (p : EchoPolicy) (tx rx : Bytes) : List Event :=
  if p = .advisory ∧ headerMode (byteAt tx 0) = .writeBurst then
    ((List.range (rx.length - 1)).filter fun k => decide (byteAt rx (k + 1) ≠ byteAt rx 0)).map
      fun k => .warning (.echoMismatch (byteAt tx 0) (k + 1) (byteAt rx 0) (byteAt rx (k + 1)))
  else []

/-- The echo bytes of a burst write pass the policy (40_bus_codec.md R121); no other frame has echo bytes
(30_encoding.md R88). -/
def echoPasses (p : EchoPolicy) (tx rx : Bytes) : Bool :=
  match p with
  | .advisory => true
  | .matchStatus => decide (headerMode (byteAt tx 0) = .writeBurst → ∀ b ∈ rx.drop 1, b = byteAt rx 0)
  | .match0F => decide (headerMode (byteAt tx 0) = .writeBurst → ∀ b ∈ rx.drop 1, b = 0x0F)

/-- The events an interaction logs (10_state.md R24; 40_bus_codec.md R120, R121). -/
def Interaction.events (p : EchoPolicy) : Interaction → List Event
  | .spi tx rx => [.xfer tx rx, .statusObserved (byteAt rx 0)] ++ echoWarnings p tx rx
  | .gpio t r => [.gpioWait t r]
  | .note w => [.warning w]

/-- The outside world gives the answers of a list of interactions, in order, each response as long as its frame and each
echo accepted: the oracle and the trace afterwards. `none` where an answer is another. -/
def interact (p : EchoPolicy) : Environment → List Event → List Interaction → Option (Environment × List Event)
  | env, tr, [] => some (env, tr)
  | env, tr, .spi tx rx :: ix =>
      if (env.answerSpi tr tx).1 = rx ∧ rx.length = tx.length ∧ echoPasses p tx rx = true then
        interact p (env.answerSpi tr tx).2 (tr ++ Interaction.events p (.spi tx rx)) ix
      else none
  | env, tr, .gpio t r :: ix =>
      if (env.answerGpio tr t).1 = r then
        interact p (env.answerGpio tr t).2 (tr ++ Interaction.events p (.gpio t r)) ix
      else none
  | env, tr, .note w :: ix => interact p env (tr ++ Interaction.events p (.note w)) ix

/-- The last chip status byte after some interactions (10_state.md R22). -/
def statusAfter : Option Byte → List Interaction → Option Byte
  | b, [] => b
  | _, .spi _ rx :: ix => statusAfter (some (byteAt rx 0)) ix
  | b, .gpio _ _ :: ix => statusAfter b ix
  | b, .note _ :: ix => statusAfter b ix

/-- Whenever the outside world gives these answers, the operation has exactly these interactions, in this order, and
answers a next state: it returns `Ok(v)`, leaves the lifecycle state `l`, and changes nothing else but the last status
byte and the trace (00_scope.md R12, R14). -/
def Completes (i : Instr) (s : State) (ix : List Interaction) (v : Value) (l : Life) : Prop :=
  ∀ env tr, interact s.cfg.echoPolicy s.env (s.trace ++ [.opStart (.op i)]) ix = some (env, tr) →
    exec i s = .next { s with
      life := l
      lastStatus := statusAfter s.lastStatus ix
      env := env
      trace := tr ++ [.opEnd (.ok v)] }

/-- Whenever the outside world gives these answers, the operation has exactly these interactions and then raises `e`: it
is recorded and logged, the lifecycle state becomes `l`, and nothing else changes (60_exceptions.md R360). -/
def Fails (i : Instr) (s : State) (ix : List Interaction) (e : ErrorInfo) (l : Life) : Prop :=
  ∀ env tr, interact s.cfg.echoPolicy s.env (s.trace ++ [.opStart (.op i)]) ix = some (env, tr) →
    exec i s = .next { s with
      life := l
      faults := s.faults ++ [⟨i, e⟩]
      lastStatus := statusAfter s.lastStatus ix
      env := env
      trace := tr ++ [.errorRaised ⟨i, e⟩, .opEnd (.err ⟨i, e⟩)] }

/-- The operation is refused: no transfer, the mark set, nothing else changed but the trace (60_exceptions.md R357). -/
def Refuses (i : Instr) (s : State) (r : RefuseReason) : Prop :=
  exec i s = .next { s with
    refused := true
    trace := s.trace ++ [.opStart (.op i), .opEnd (.refused r)] }

end Sys2Proof.Machine
end

