-- ==== Sys2Proof/Certificates/Slice0/Obligations.lean ====
section
/-! DEFINITION. The statements about the model, one `def Obligations.<Name> : Prop` each, taken from the spec's numbered
rules. Frames and bytes are written out as the spec writes them. -/

namespace Sys2Proof.Machine

/-! ### Tables the statements share -/

/-- The rows of 30_encoding.md R89, by mode, address and number of data bytes. -/
def rowOfR89 (m : Mode) (a n : Nat) : Prop :=
  match m with
  | .readSingle => a ≤ 0x2E ∧ n = 1
  | .readBurst =>
      (a ≤ 0x2E ∧ 1 ≤ n ∧ n ≤ 47 ∧ a + n - 1 ≤ 0x2E) ∨ (0x30 ≤ a ∧ a ≤ 0x3D ∧ n = 1) ∨
        (a = 0x3E ∧ 1 ≤ n ∧ n ≤ 8) ∨ (a = 0x3F ∧ 1 ≤ n)
  | .writeSingle => ((0x30 ≤ a ∧ a ≤ 0x36) ∨ (0x38 ≤ a ∧ a ≤ 0x3D)) ∧ n = 0
  | .writeBurst =>
      (a ≤ 0x2E ∧ 1 ≤ n ∧ n ≤ 47 ∧ a + n - 1 ≤ 0x2E) ∨ (a = 0x3E ∧ 1 ≤ n ∧ n ≤ 8) ∨ (a = 0x3F ∧ 1 ≤ n)

/-- The clauses (a) to (g) of 30_encoding.md R90. -/
def clauseOfR90 (m : Mode) (a n : Nat) : Prop :=
  (m = .readSingle ∧ 0x30 ≤ a ∧ a ≤ 0x3D) ∨
  (m = .readSingle ∧ (a = 0x2F ∨ a = 0x3E ∨ a = 0x3F)) ∨
  (m = .writeSingle ∧ (a ≤ 0x2F ∨ a = 0x37 ∨ a = 0x3E ∨ a = 0x3F)) ∨
  (m = .writeBurst ∧ 0x2F ≤ a ∧ a ≤ 0x3D) ∨
  (m = .readBurst ∧ a = 0x2F) ∨
  ((m = .readBurst ∨ m = .writeBurst) ∧
    (n = 0 ∨ (a ≤ 0x2E ∧ 0x2E < a + n - 1) ∨ (a = 0x3E ∧ 8 < n))) ∨
  (m = .writeSingle ∧ n ≠ 0) ∨ (m = .readBurst ∧ 0x30 ≤ a ∧ a ≤ 0x3D ∧ n ≠ 1)

/-- A frame whose header and length are a row of R89. -/
def frameOfR89 : Bytes → Prop
  | [] => False
  | h :: data => rowOfR89 (headerMode h) (headerAddr h).toNat data.length

/-- The operations each lifecycle state accepts (10_state.md R25). -/
def acceptedByR25 (l : Life) (i : Instr) : Prop :=
  match l with
  | .closed => i = .openOp ∨ i = .closeOp
  | .ready => i ≠ .openOp ∧ i ≠ .asyncTxEnd
  | .asyncTx => i = .asyncTxEnd ∨ i = .closeOp
  | .faulted => i = .closeOp

/-- The lifecycle state an accepted operation leaves (10_state.md R25, last column; 60_exceptions.md R360). -/
def lifeAfter (l : Life) (i : Instr) (o : OpOutcome) : Life :=
  match i, o with
  | .closeOp, _ => .closed
  | .openOp, .ok _ => .ready
  | .openOp, _ => .closed
  | .asyncTxBegin, .ok _ => .asyncTx
  | .asyncTxEnd, .ok _ => .ready
  | _, .err e => if kindClass e.info.kind = .protocolError then .faulted else l
  | _, _ => l

/-- The thirteen strobes and `Reset` with their headers (40_bus_codec.md R128 to R141; 30_encoding.md R95). -/
def strobeHeaders : List (Instr × Byte) :=
  [(.resetOp, 0x30), (.stbSres, 0x30), (.stbSfstxon, 0x31), (.stbSxoff, 0x32), (.stbScal, 0x33), (.stbSrx, 0x34),
   (.stbStx, 0x35), (.stbSidle, 0x36), (.stbSwor, 0x38), (.stbSpwd, 0x39), (.stbSfrx, 0x3A), (.stbSftx, 0x3B),
   (.stbSworrst, 0x3C), (.stbSnop, 0x3D)]

/-- The fourteen status reads with their headers (40_bus_codec.md R142 to R155; 30_encoding.md R96). -/
def statusHeaders : List (Instr × Byte) :=
  [(.rdsPartnum, 0xF0), (.rdsVersion, 0xF1), (.rdsFreqest, 0xF2), (.rdsLqi, 0xF3), (.rdsRssi, 0xF4),
   (.rdsMarcstate, 0xF5), (.rdsWortime1, 0xF6), (.rdsWortime0, 0xF7), (.rdsPktstatus, 0xF8), (.rdsVcoVcDac, 0xF9),
   (.rdsTxbytes, 0xFA), (.rdsRxbytes, 0xFB), (.rdsRcctrl1Status, 0xFC), (.rdsRcctrl0Status, 0xFD)]

/-- The getters that read one configuration or status register: the header sent and the result of the byte read
(41_register_fields.md R204 to R234; 43_lifecycle.md R287). -/
def getterOf : Instr → Option (Byte × (Byte → Value))
  | .getFilterBandwidthFP => some (0x90, fun b => .filterBandwidthFP (b.toNat / 16 % 4) (b.toNat / 64))
  | .getModulationFormat => some (0x92, fun b => .modulationFormat (match b.toNat / 16 % 8 with
      | 0 => .known .fsk2
      | 1 => .known .gfsk
      | 3 => .known .askOok
      | 4 => .known .fsk4
      | 7 => .known .msk
      | k => .unknown k))
  | .getSyncMode => some (0x92, fun b => .syncMode (match b.toNat % 4 with
      | 0 => .known .noPreambleAndSyncWord
      | 1 => .known .transmit16Match15Bits
      | 2 => .known .transmit16Match16Bits
      | _ => .known .transmit32Match30Bits) (b.getLsbD 2))
  | .getPreambleLength => some (0x93, fun b => .preambleLength (match b.toNat / 16 % 8 with
      | 0 => 2
      | 1 => 3
      | 2 => 4
      | 3 => 6
      | 4 => 8
      | 5 => 12
      | 6 => 16
      | _ => 24))
  | .getPacketLength => some (0x86, fun b => .byte b)
  | .getPacketLengthMode => some (0x88, fun b => .packetLengthMode (match b.toNat % 4 with
      | 0 => .known .fixed
      | 1 => .known .variable
      | k => .unknown k))
  | .getChecksumEnabled => some (0x88, fun b => .flag (b.getLsbD 2))
  | .getDataWhiteningEnabled => some (0x88, fun b => .flag (b.getLsbD 6))
  | .getTransceiveMode => some (0x88, fun b => .transceiveMode (match b.toNat / 16 % 4 with
      | 0 => .known .fifo
      | 1 => .known .synchronousSerial
      | 2 => .known .randomTransmission
      | _ => .known .asynchronousSerial))
  | .getManchesterEnabled => some (0x92, fun b => .flag (b.getLsbD 3))
  | .getPAIndex => some (0xA2, fun b => .field (b.toNat % 8))
  | .getCalibrationOnWake => some (0x98, fun b => .field (b.toNat / 16 % 4))
  | .getMarcstate => some (0xF5, fun b => .marcstate b (marcOfCode (b.toNat % 32)))
  | _ => none

/-- NUM_PREAMBLE in place, bits 6:4 of MDMCFG1, for a length of the table (41_register_fields.md R188, R197). -/
def preambleBits (nbytes : Int) : Option Byte :=
  if nbytes = 2 then some 0x00
  else if nbytes = 3 then some 0x10
  else if nbytes = 4 then some 0x20
  else if nbytes = 6 then some 0x30
  else if nbytes = 8 then some 0x40
  else if nbytes = 12 then some 0x50
  else if nbytes = 16 then some 0x60
  else if nbytes = 24 then some 0x70
  else none

/-- The setters that read one register and write it back: its address and the byte written for the byte read, for the
operands in range (41_register_fields.md R205 to R235). -/
def setterOf : Instr → Option (Byte × (Byte → Byte))
  | .setFilterBandwidthFP m e =>
      if 0 ≤ m ∧ m ≤ 3 ∧ 0 ≤ e ∧ e ≤ 3 then some (0x10, fun b => (b &&& 0x0F) ||| BitVec.ofInt 8 (64 * e + 16 * m))
      else none
  | .setModulationFormat f => some (0x12, fun b => (b &&& 0x8F) ||| (match f with
      | .fsk2 => 0x00
      | .gfsk => 0x10
      | .askOok => 0x30
      | .fsk4 => 0x40
      | .msk => 0x70))
  | .setSyncMode mode cs => some (0x12, fun b =>
      (b &&& (if cs = none then 0xFC else 0xF8)) ||| (match mode with
        | .noPreambleAndSyncWord => 0x00
        | .transmit16Match15Bits => 0x01
        | .transmit16Match16Bits => 0x02
        | .transmit32Match30Bits => 0x03) ||| (if cs = some true then 0x04 else 0x00))
  | .setPreambleLength nbytes => (preambleBits nbytes).map fun k => (0x13, fun b => (b &&& 0x8F) ||| k)
  | .setPacketLengthMode mode => some (0x08, fun b => (b &&& 0xFC) ||| (match mode with
      | .fixed => 0x00
      | .variable => 0x01))
  | .enableChecksum => some (0x08, fun b => b ||| 0x04)
  | .disableChecksum => some (0x08, fun b => b &&& 0xFB)
  | .enableDataWhitening => some (0x08, fun b => b ||| 0x40)
  | .disableDataWhitening => some (0x08, fun b => b &&& 0xBF)
  | .setTransceiveMode t => some (0x08, fun b => (b &&& 0xCF) ||| (match t with
      | .fifo => 0x00
      | .synchronousSerial => 0x10
      | .randomTransmission => 0x20
      | .asynchronousSerial => 0x30))
  | .enableManchester => some (0x12, fun b => b ||| 0x08)
  | .disableManchester => some (0x12, fun b => b &&& 0xF7)
  | .setPAIndex i => if 0 ≤ i ∧ i ≤ 7 then some (0x22, fun b => (b &&& 0xF8) ||| BitVec.ofInt 8 i) else none
  | .setCalibrationOnWake v =>
      if 0 ≤ v ∧ v ≤ 3 then some (0x18, fun b => (b &&& 0xCF) ||| BitVec.ofInt 8 (16 * v)) else none
  | _ => none

/-- The setters that replace whole registers: the frame sent, for the operands in range (41_register_fields.md R201,
R211, R215). -/
def wholeWriteOf : Instr → Option Bytes
  | .setFrequencyWord w =>
      if 0 ≤ w ∧ w < 2 ^ 24 then
        some [0x4D, BitVec.ofInt 8 (w / 65536), BitVec.ofInt 8 (w / 256), BitVec.ofInt 8 w]
      else none
  | .setSyncWord v => if v.length = 2 then some (0x44 :: v) else none
  | .setPacketLength n => if 1 ≤ n ∧ n ≤ 255 then some [0x46, BitVec.ofInt 8 n] else none
  | _ => none

/-- The ConfigurationErrors an operation's own arguments raise, the first one in the order its rule lists the checks
(41_register_fields.md R198; 60_exceptions.md R352, R361). -/
def argumentError (c : Config) : Instr → Option ErrorInfo
  | .setFrequencyWord w =>
      if 0 ≤ w ∧ w < 2 ^ 24 then none
      else some { kind := .frequencyRange, reg := some 0x0D, value := some (.int w) }
  | .setSymbolRateFP m e =>
      if ¬(0 ≤ m ∧ m ≤ 255) then some { kind := .fieldRange, reg := some 0x11, value := some (.int m) }
      else if ¬(0 ≤ e ∧ e ≤ 15) then some { kind := .symbolRateExponent, reg := some 0x10, value := some (.int e) }
      else none
  | .setFilterBandwidthFP m e =>
      if ¬(0 ≤ m ∧ m ≤ 3) then some { kind := .fieldRange, reg := some 0x10, value := some (.int m) }
      else if ¬(0 ≤ e ∧ e ≤ 3) then some { kind := .fieldRange, reg := some 0x10, value := some (.int e) }
      else none
  | .setSyncWord v =>
      if v.length = 2 then none
      else some { kind := .syncWordLength, reg := some 0x04, value := some (.int v.length) }
  | .setPreambleLength nbytes =>
      if nbytes ∈ ([2, 3, 4, 6, 8, 12, 16, 24] : List Int) then none
      else some { kind := .preambleLength, reg := some 0x13, value := some (.int nbytes) }
  | .setPacketLength n =>
      if 1 ≤ n ∧ n ≤ 255 then none else some { kind := .packetLength, reg := some 0x06, value := some (.int n) }
  | .setPAIndex i =>
      if 0 ≤ i ∧ i ≤ 7 then none else some { kind := .paIndex, reg := some 0x22, value := some (.int i) }
  | .setCalibrationOnWake v =>
      if 0 ≤ v ∧ v ≤ 3 then none else some { kind := .fieldRange, reg := some 0x18, value := some (.int v) }
  | .setOutputPower values =>
      if ¬(1 ≤ values.length ∧ values.length ≤ 8) then
        some { kind := .patableLength, reg := some 0x3E, value := some (.int values.length) }
      else (values.zipIdx.find? fun p => decide (¬(0 ≤ p.1 ∧ p.1 ≤ 255))).map
        fun p => { kind := .patableValue, reg := some 0x3E, value := some (.pair p.2 p.1) }
  | .setBaseFrequencyHz hz =>
      if hzToWord c hz > 0xFFFFFF then
        some { kind := .frequencyRange, reg := some 0x0D, value := some (.rat hz.val) }
      else none
  | .setSymbolRateBaud baud =>
      if baud.val = 0 then
        some { kind := .symbolRateNonpositive, reg := some 0x10, value := some (.rat baud.val) }
      else if ¬(0 ≤ (baudToFp c baud.val).2 ∧ (baudToFp c baud.val).2 ≤ 15) then
        some { kind := .symbolRateExponent, reg := some 0x10, value := some (.rat baud.val) }
      else none
  | .transmit payload =>
      if payload = [] then some { kind := .emptyPayload, reg := some 0x3F, value := some (.int 0) } else none
  | _ => none

/-- The operations that only look at the chip (41_register_fields.md getters; 42_field_conversions.md R261, R264, R265;
43_lifecycle.md R287; the read transactions of 40_bus_codec.md). -/
def isGetter : Instr → Bool
  | .rd1 _ | .rdb _ _ | .rds _ | .rdbPatable _ | .rdbRxFifo _ => true
  | .rdsPartnum | .rdsVersion | .rdsFreqest | .rdsLqi | .rdsRssi | .rdsMarcstate | .rdsWortime1 | .rdsWortime0
  | .rdsPktstatus | .rdsVcoVcDac | .rdsTxbytes | .rdsRxbytes | .rdsRcctrl1Status | .rdsRcctrl0Status => true
  | .getFrequencyWord | .getSymbolRateFP | .getFilterBandwidthFP | .getModulationFormat | .getSyncMode | .getSyncWord
  | .getPreambleLength | .getPacketLength | .getPacketLengthMode | .getChecksumEnabled | .getDataWhiteningEnabled
  | .getTransceiveMode | .getManchesterEnabled | .getPAIndex | .getPatable | .getOutputPower | .getCalibrationOnWake
  | .getBaseFrequencyHz | .getSymbolRateBaud | .getFilterBandwidthHz | .getMarcstate => true
  | _ => false

/-- The getter of the field a setter sets, and what it answers afterwards, for setter operands in range, under the
configuration `c` and with MDMCFG2 as it was before the setter. A value in physical units comes back as the hardware word
it was converted to gives it (42_field_conversions.md R250 to R253). -/
def readBack (c : Config) (mdmcfg2 : Byte) : Instr → Option (Instr × Value)
  | .setFrequencyWord w =>
      if 0 ≤ w ∧ w < 2 ^ 24 then some (.getFrequencyWord, .word24 (BitVec.ofInt 24 w)) else none
  | .setSymbolRateFP m e =>
      if 0 ≤ m ∧ m ≤ 255 ∧ 0 ≤ e ∧ e ≤ 15 then
        some (.getSymbolRateFP, .symbolRateFP (BitVec.ofInt 8 m) e.toNat)
      else none
  | .setFilterBandwidthFP m e =>
      if 0 ≤ m ∧ m ≤ 3 ∧ 0 ≤ e ∧ e ≤ 3 then some (.getFilterBandwidthFP, .filterBandwidthFP m.toNat e.toNat) else none
  | .setModulationFormat f => some (.getModulationFormat, .modulationFormat (.known f))
  | .setSyncMode mode cs => some (.getSyncMode, .syncMode (.known mode) (cs.getD (mdmcfg2.getLsbD 2)))
  | .setSyncWord v => if v.length = 2 then some (.getSyncWord, .bytes v) else none
  | .setPreambleLength nbytes =>
      if (preambleBits nbytes).isSome then some (.getPreambleLength, .preambleLength nbytes.toNat) else none
  | .setPacketLength n =>
      if 1 ≤ n ∧ n ≤ 255 then some (.getPacketLength, .byte (BitVec.ofInt 8 n)) else none
  | .setPacketLengthMode mode => some (.getPacketLengthMode, .packetLengthMode (.known mode))
  | .enableChecksum => some (.getChecksumEnabled, .flag true)
  | .disableChecksum => some (.getChecksumEnabled, .flag false)
  | .enableDataWhitening => some (.getDataWhiteningEnabled, .flag true)
  | .disableDataWhitening => some (.getDataWhiteningEnabled, .flag false)
  | .setTransceiveMode t => some (.getTransceiveMode, .transceiveMode (.known t))
  | .enableManchester => some (.getManchesterEnabled, .flag true)
  | .disableManchester => some (.getManchesterEnabled, .flag false)
  | .setPAIndex i => if 0 ≤ i ∧ i ≤ 7 then some (.getPAIndex, .field i.toNat) else none
  | .setCalibrationOnWake v => if 0 ≤ v ∧ v ≤ 3 then some (.getCalibrationOnWake, .field v.toNat) else none
  | .setOutputPower values =>
      if 1 ≤ values.length ∧ values.length ≤ 8 ∧ ∀ v ∈ values, 0 ≤ v ∧ v ≤ 255 then
        some (.getOutputPower, .bytes (values.map (BitVec.ofInt 8)))
      else none
  | .setBaseFrequencyHz hz =>
      if hzToWord c hz ≤ 0xFFFFFF then
        some (.getBaseFrequencyHz, .hz (wordToHz c (BitVec.ofInt 24 (hzToWord c hz))))
      else none
  | .setSymbolRateBaud baud =>
      if 0 < baud.val ∧ 0 ≤ (baudToFp c baud.val).2 ∧ (baudToFp c baud.val).2 ≤ 15 then
        some (.getSymbolRateBaud,
          .baud (fpToBaud c (BitVec.ofInt 8 (baudToFp c baud.val).1) (baudToFp c baud.val).2.toNat))
      else none
  | _ => none

/-- The reset column of 20_memory.md R52, 0x00 to 0x2E. -/
def registersAtReset : Bytes :=
  [0x29, 0x2E, 0x3F, 0x07, 0xD3, 0x91, 0xFF, 0x04, 0x45, 0x00, 0x00, 0x0F, 0x00, 0x1E, 0xC4, 0xEC] ++
  [0x8C, 0x22, 0x02, 0x22, 0xF8, 0x47, 0x07, 0x30, 0x04, 0x36, 0x6C, 0x03, 0x40, 0x91, 0x87, 0x6B] ++
  [0xF8, 0x56, 0x10, 0xA9, 0x0A, 0x20, 0x0D, 0x41, 0x00, 0x59, 0x7F, 0x3F, 0x88, 0x31, 0x0B]

/-- PATABLE after chip reset (20_memory.md R55). -/
def tableAtReset : Bytes := [0xC6, 0x00, 0x00, 0x00, 0x00, 0x00, 0x00, 0x00]

end Sys2Proof.Machine

open Sys2Proof Sys2Proof.Machine

/-! ## Encoding -/

/-- R80 to R82: the header byte is the address OR the mode bits, bit 7 is R/W, bit 6 is B, bits 5:0 are the address, and
decoding is total on all byte values. R81 and R82 are the spec's own inferences from R80. -/
def Obligations.HeaderByteLayout : Prop :=
  (∀ a : Addr6,
    header .writeSingle a = a.setWidth 8 ||| 0x00 ∧ header .writeBurst a = a.setWidth 8 ||| 0x40 ∧
    header .readSingle a = a.setWidth 8 ||| 0x80 ∧ header .readBurst a = a.setWidth 8 ||| 0xC0) ∧
  (∀ (m : Mode) (a : Addr6),
    (header m a).getLsbD 7 = decide (m = .readSingle ∨ m = .readBurst) ∧
    (header m a).getLsbD 6 = decide (m = .writeBurst ∨ m = .readBurst) ∧
    headerMode (header m a) = m ∧ headerAddr (header m a) = a ∧ (header m a).toNat % 64 = a.toNat) ∧
  (∀ h : Byte, header (headerMode h) (headerAddr h) = h)

/-- Frames written out from R83 and R95 to R97 decode to the instructions they stand for. Where two rows of the opcode
table share a frame ([0x30] is STB 0x30, Reset and STB SRES; [0xF5, 0x00] is RDS 0x35 and RDS MARCSTATE), that it decodes
to the named strobe or register is the model's choice (DESIGN CHOICE, log entry 6), and so is the PATABLE and FIFO row
before RDB and WRB (log entry 7). -/
def Obligations.SpecFramesDecode : Prop :=
  decode [0x88, 0x00] = .ok (.rd1 0x08) ∧
  decode [0xCD, 0x00, 0x00, 0x00] = .ok (.rdb 0x0D 3) ∧
  decode [0xF5, 0x00] = .ok .rdsMarcstate ∧
  decode [0xFB, 0x00] = .ok .rdsRxbytes ∧
  decode [0x30] = .ok .stbSres ∧
  decode [0x36] = .ok .stbSidle ∧
  decode [0x3D] = .ok .stbSnop ∧
  decode [0x4D, 0x10, 0xB0, 0x71] = .ok (.wrb 0x0D [0x10, 0xB0, 0x71]) ∧
  decode [0xFE, 0x00, 0x00, 0x00, 0x00, 0x00, 0x00, 0x00, 0x00] = .ok (.rdbPatable 8) ∧
  decode [0x7E, 0x00, 0xC0] = .ok (.wrbPatable [0x00, 0xC0]) ∧
  decode [0xFF, 0x00, 0x00] = .ok (.rdbRxFifo 2) ∧
  decode [0x7F, 0x03, 0xAA, 0xBB, 0xCC] = .ok (.wrbTxFifo [0x03, 0xAA, 0xBB, 0xCC])

/-- Decoding an encoded well-formed instruction gives it back; the two generic spellings of a named register or strobe,
and `Reset`, give the named instruction with the same words (log entry 6). -/
def Obligations.DecodeEncodeAgree : Prop :=
  (∀ (i : Instr) (tx : Bytes), i.wf = true → encode i = some tx →
    decode tx = .ok (canonical i) ∧ encode (canonical i) = some tx) ∧
  (∀ i : Instr, (∀ a, i ≠ .rds a) → (∀ a, i ≠ .stb a) → i ≠ .resetOp → canonical i = i)

/-- The other direction: what decodes is well formed, and encoding it gives a frame of the same header and length, and
the very frame if it is a write. The filler bytes of a read frame are not looked at (log entry 5). -/
def Obligations.EncodeDecodeAgree : Prop :=
  ∀ (h : Byte) (data : Bytes) (i : Instr), decode (h :: data) = .ok i →
    i.wf = true ∧ ∃ data', encode i = some (h :: data') ∧ data'.length = data.length ∧
      (h.getLsbD 7 = false → data' = data)

/-- R98 (the spec's own inference from R89 and R90): the headers for which no length gives a legal form are exactly the
listed ones. -/
def Obligations.RefusedHeaders : Prop :=
  ∀ h : Byte, (∀ data, ∃ e, decode (h :: data) = .error e) ↔
    (h.toNat ≤ 0x2F ∨ h = 0x37 ∨ h = 0x3E ∨ h = 0x3F) ∨ (0xAF ≤ h.toNat ∧ h.toNat ≤ 0xBF) ∨
      (0x6F ≤ h.toNat ∧ h.toNat ≤ 0x7D) ∨ h = 0xEF

/-- R90 for a raw transaction in READY (the other lifecycle states: StepRunsDecodedCall): every combination of mode,
address and length that is no row of R89 is refused, the clauses (a) to (g) among them: no transfer, the mark set. The raw
call and its OpStart event, which holds the frame, are the model's choice (DESIGN CHOICE, log entry 5). -/
def Obligations.FormsOutsideR89Refused : Prop :=
  (∀ m a n, clauseOfR90 m a n → ¬rowOfR89 m a n) ∧
  (∀ (s : State) (h : Byte) (data : Bytes), s.life = .ready →
    ¬rowOfR89 (headerMode h) (headerAddr h).toNat data.length →
    runCall (.raw h data) s = .next { s with
      refused := true
      trace := s.trace ++ [.opStart (.raw h data), .opEnd (.refused (.illegalForm h data.length))] })

/-- R90 for a transaction handed over as an operation in READY: operands that give no row of R89 are refused. -/
def Obligations.IllegalOperandsRefused : Prop :=
  ∀ (s : State) (i : Instr) (h : Byte) (data : Bytes), s.life = .ready → encode i = some (h :: data) →
    ¬rowOfR89 (headerMode h) (headerAddr h).toNat data.length → Refuses i s (.illegalForm h data.length)

/-! ## Steps and the envelope -/

/-- R27: a step runs the instruction the next call decodes to and moves the index past it whatever the outcome; a raw
frame that decodes to none is refused and passed too; without a call there is no step. -/
def Obligations.StepRunsDecodedCall : Prop :=
  (∀ (s : State) (c : HostCall) (i : Instr) (t : State), s.program[s.pc]? = some c → decodeCall c = .ok i →
    exec i s = .next t → step s = .next { t with pc := t.pc + 1 }) ∧
  (∀ (s : State) (h : Byte) (data : Bytes) (e : DecodeError), s.program[s.pc]? = some (.raw h data) →
    decode (h :: data) = .error e →
    step s = .next { s with
      pc := s.pc + 1
      refused := true
      trace := s.trace ++ [.opStart (.raw h data), .opEnd (.refused
        (if s.life = .ready then .illegalForm h data.length else .wrongState (.raw h data) s.life))] }) ∧
  (∀ s : State, s.program[s.pc]? = none → step s = .refused .noHostCall)

/-- R12, R24: every operation answers, logs OpStart first and OpEnd last, each once, only adds to the trace, and leaves
the configuration and the host's program alone. -/
def Obligations.EveryOperationIsBracketed : Prop :=
  ∀ (i : Instr) (s : State), ∃ (t : State) (ev : List Event) (o : OpOutcome),
    exec i s = .next t ∧ t.trace = s.trace ++ .opStart (.op i) :: ev ++ [.opEnd o] ∧
    (∀ c, Event.opStart c ∉ ev) ∧ (∀ o', Event.opEnd o' ∉ ev) ∧
    t.cfg = s.cfg ∧ t.program = s.program ∧ t.pc = s.pc

/-- R23: the refusal mark starts FALSE, becomes TRUE when a call is refused, and stays TRUE. -/
def Obligations.RefusalMarkIsSticky : Prop :=
  State.reset.refused = false ∧
  ∀ (c : HostCall) (s t : State), runCall c s = .next t →
    (t.refused = true ↔ s.refused = true ∨ ∃ r, t.trace.getLast? = some (.opEnd (.refused r)))

/-- R25, with R360, R331 and R286 for the state an error leaves: an operation outside the lifecycle state's list is
refused; an accepted one leaves the state the table says; `Close` makes no transfer but from ASYNC_TX. That WRONG_STATE
comes before ILLEGAL_FORM for a transaction with illegal operands is the model's reading (DEDUCED, log entry 4). -/
def Obligations.LifecycleTable : Prop :=
  (∀ (i : Instr) (s : State), ¬acceptedByR25 s.life i → Refuses i s (.wrongState (.op i) s.life)) ∧
  (∀ (i : Instr) (s t : State) (o : OpOutcome), acceptedByR25 s.life i → exec i s = .next t →
    t.trace.getLast? = some (.opEnd o) → t.life = lifeAfter s.life i o ∧ ∀ c l, o ≠ .refused (.wrongState c l)) ∧
  (∀ s t : State, s.life ≠ .asyncTx → exec .closeOp s = .next t → framesIn (newEvents s t) = [])

/-- R30: the block just created. -/
def Obligations.ResetState : Prop :=
  State.reset.life = .closed ∧ State.reset.refused = false ∧ State.reset.faults = [] ∧
  State.reset.lastStatus = none ∧ State.reset.trace = []

/-! ## Errors -/

/-- R360: an operation that logs an error records it once, as its own, ends with it, and leaves the lifecycle state the
rule gives; no transfer follows and no refusal is marked. -/
def Obligations.TakingAnError : Prop :=
  ∀ (i : Instr) (s t : State) (e : ErrorRecord), exec i s = .next t → Event.errorRaised e ∈ newEvents s t →
    e.op = i ∧ t.faults = s.faults ++ [e] ∧ t.refused = s.refused ∧
    (∃ ev, t.trace = s.trace ++ ev ++ [.errorRaised e, .opEnd (.err e)] ∧ ∀ e', Event.errorRaised e' ∉ ev) ∧
    t.life =
      if i = .openOp then .closed
      else if i = .closeOp then .closed
      else if kindClass e.info.kind = .protocolError then .faulted
      else s.life

/-- R120: a response of a wrong length is the last transfer of its operation and ends it with ProtocolError LENGTH; its
status byte is not observed. The record's `header` field is the model's (DESIGN CHOICE, log entry 8). -/
def Obligations.WrongLengthEndsOperation : Prop :=
  ∀ (i : Instr) (s t : State) (tx rx : Bytes), exec i s = .next t → Event.xfer tx rx ∈ newEvents s t →
    rx.length ≠ tx.length →
    ∃ tr, t.trace = tr ++ [.xfer tx rx,
      .errorRaised ⟨i, { kind := .length, header := tx.head?, expected := some (.int tx.length),
                         actual := some (.int rx.length) }⟩,
      .opEnd (.err ⟨i, { kind := .length, header := tx.head?, expected := some (.int tx.length),
                         actual := some (.int rx.length) }⟩)]

/-- R120 for the transactions handed over as operations: the wrong length in full, with everything it leaves alone. That
`rdb`, `wrb` and `rds` at an address of another row of R89 run that row's transaction is the model's reading (DEDUCED, log
entry 7); the record's `header` field is the model's (DESIGN CHOICE, log entry 8). -/
def Obligations.TransactionLengthError : Prop :=
  ∀ (i : Instr) (s : State) (h : Byte) (data : Bytes), s.life = .ready → encode i = some (h :: data) →
    rowOfR89 (headerMode h) (headerAddr h).toNat data.length →
    ∀ (rx : Bytes) (env : Environment),
      s.env.answerSpi (s.trace ++ [.opStart (.op i)]) (h :: data) = (rx, env) → rx.length ≠ data.length + 1 →
      ∀ e : ErrorRecord, e = ⟨i, { kind := .length, header := some h, expected := some (.int (data.length + 1)),
                                   actual := some (.int rx.length) }⟩ →
        exec i s = .next { s with
          life := .faulted
          faults := s.faults ++ [e]
          env := env
          trace := s.trace ++ [.opStart (.op i), .xfer (h :: data) rx, .errorRaised e, .opEnd (.err e)] }

/-- R121: the echo check of every burst write, whichever operation made it. ADVISORY: the status byte is followed by one
warning per mismatching byte, and no error. The two checking policies: the lowest mismatching byte, at index k + 1, ends
the operation with ProtocolError ECHO. Nothing but a burst write raises ECHO. The record's `header` and `index` fields are
the model's place for what R121 names (DESIGN CHOICE, log entry 8). -/
def Obligations.EchoPolicies : Prop :=
  (∀ (i : Instr) (s t : State) (tx : Bytes) (st : Byte) (echo : Bytes), exec i s = .next t →
    Event.xfer tx (st :: echo) ∈ newEvents s t → headerMode (byteAt tx 0) = .writeBurst → echo.length + 1 = tx.length →
    (s.cfg.echoPolicy = .advisory → ∃ pre post, newEvents s t =
      pre ++ [.xfer tx (st :: echo), .statusObserved st] ++
        ((List.range echo.length).filter fun k => decide (echo.getD k 0 ≠ st)).map
          (fun k => .warning (.echoMismatch (byteAt tx 0) (k + 1) st (echo.getD k 0))) ++ post ∧
      ∀ w, post.head? = some (.warning w) → ∃ hz, w = .frequencyBelowTxFloor hz) ∧
    (∀ (want : Byte) (k : Nat),
      (s.cfg.echoPolicy = .matchStatus ∧ want = st ∨ s.cfg.echoPolicy = .match0F ∧ want = 0x0F) →
      k < echo.length → (∀ j < k, echo.getD j 0 = want) → echo.getD k 0 ≠ want →
      ∃ (tr : List Event) (e : ErrorRecord),
        e = ⟨i, { kind := .echo, header := tx.head?, index := some (k + 1), expected := some (.byte want),
                  actual := some (.byte (echo.getD k 0)) }⟩ ∧
        t.trace = tr ++ [.xfer tx (st :: echo), .statusObserved st, .errorRaised e, .opEnd (.err e)])) ∧
  (∀ (i : Instr) (s t : State) (e : ErrorRecord), exec i s = .next t → Event.errorRaised e ∈ newEvents s t →
    e.info.kind = .echo →
    s.cfg.echoPolicy ≠ .advisory ∧ ∃ tx ∈ framesIn (newEvents s t),
      headerMode (byteAt tx 0) = .writeBurst ∧ e.info.header = tx.head?)

/-- R198: arguments outside their range raise ConfigurationError, the first check in the rule's order, with no
transfer. -/
def Obligations.ArgumentErrors : Prop :=
  ∀ (i : Instr) (s : State) (e : ErrorInfo), s.life = .ready → argumentError s.cfg i = some e →
    kindClass e.kind = .configurationError ∧ Fails i s [] e .ready

/-- R352: a ConfigurationError comes before any transfer, but for the three payload kinds of `Transmit`, which come after
reads and before any write or strobe. -/
def Obligations.ConfigurationErrorsNeverWrite : Prop :=
  ∀ (i : Instr) (s t : State) (e : ErrorRecord), exec i s = .next t → Event.errorRaised e ∈ newEvents s t →
    kindClass e.info.kind = .configurationError →
    (∀ tx ∈ framesIn (newEvents s t), isReadFrame tx = true) ∧
    (e.info.kind ≠ .payloadTooLong → e.info.kind ≠ .payloadLengthMismatch →
      e.info.kind ≠ .unsupportedPacketLengthMode → framesIn (newEvents s t) = [])

/-- R351, R353 to R355: the class and the code of every kind. -/
def Obligations.ErrorClassesAndCodes : Prop :=
  (∀ k : ErrorKind, classCode (kindClass k) =
    match k with
    | .length | .echo | .shortRx => 1
    | .partnum | .version => 3
    | .notIdleAfterConfig | .notIdleTx => 4
    | _ => 2) ∧
  classCode .protocolError = 1 ∧ classCode .configurationError = 2 ∧ classCode .deviceIdentityError = 3 ∧
  classCode .stateError = 4 ∧ classCode .lockContentionError = 5

/-! ## Rules over every operation -/

/-- R89: the block issues only the listed forms. -/
def Obligations.OnlyListedFormsIssued : Prop :=
  ∀ (c : HostCall) (s t : State), runCall c s = .next t → ∀ tx ∈ framesIn (newEvents s t), frameOfR89 tx

/-- R28: no operation branches on the last status byte: with another one in the state, every operation does the same. -/
def Obligations.LastStatusIsTelemetry : Prop :=
  ∀ (i : Instr) (s : State) (b : Option Byte), ∃ t t' : State,
    exec i s = .next t ∧ exec i { s with lastStatus := b } = .next t' ∧
    { t' with lastStatus := t.lastStatus } = t ∧
    (statusesIn (newEvents s t) = [] → t.lastStatus = s.lastStatus ∧ t'.lastStatus = b) ∧
    (statusesIn (newEvents s t) ≠ [] → t'.lastStatus = t.lastStatus)

/-- R370: the only wait is the one inside `Receive`, once at most, with the timeout it was given. -/
def Obligations.OnlyReceiveWaits : Prop :=
  ∀ (i : Instr) (s t : State) (tm : Timeout) (r : Bool), exec i s = .next t →
    Event.gpioWait tm r ∈ newEvents s t →
    i = .receive tm ∧
      ∃ pre post, newEvents s t = pre ++ .gpioWait tm r :: post ∧ ∀ tm' r', Event.gpioWait tm' r' ∉ pre ++ post

/-- R29, R199: a getter issues only read transactions, warns of nothing, and the one error it can raise is
ProtocolError LENGTH. -/
def Obligations.GettersOnlyRead : Prop :=
  ∀ (i : Instr) (s t : State), isGetter i = true → exec i s = .next t →
    (∀ tx ∈ framesIn (newEvents s t), isReadFrame tx = true) ∧
    (∀ w, Event.warning w ∉ newEvents s t) ∧
    (∀ e, Event.errorRaised e ∈ newEvents s t → e.info.kind = .length)

/-! ## Invariants -/

/-- R22 to R24: the error list, the refusal mark and the last status byte stay what the trace says. -/
def Obligations.StepKeepsLogs : Prop :=
  ∀ s t : State, LogsAgree s → step s = .next t → LogsAgree t

/-- The responder's memories stay in canonical form. -/
def Obligations.StepKeepsMemoriesCanonical : Prop :=
  ∀ s t : State, EnvCanonical s → step s = .next t → EnvCanonical t

/-- Both invariants hold at reset. -/
def Obligations.ResetMeetsInvariants : Prop :=
  LogsAgree State.reset ∧ EnvCanonical State.reset

/-! ## Transactions as host operations -/

/-- R126, R128 to R141: a strobe in READY sends its one header byte and returns `()`; only the status byte and the trace
change. -/
def Obligations.StrobesComplete : Prop :=
  (∀ p ∈ strobeHeaders, ∀ (s : State) (st : Byte), s.life = .ready →
    Completes p.1 s [.spi [p.2] [st]] .unit .ready) ∧
  (∀ (a : Addr6) (s : State) (st : Byte), s.life = .ready →
    (0x30 ≤ a.toNat ∧ a.toNat ≤ 0x36 ∨ 0x38 ≤ a.toNat ∧ a.toNat ≤ 0x3D) →
    Completes (.stb a) s [.spi [a.setWidth 8] [st]] .unit .ready)

/-- R125, R142 to R155: a status read in READY sends its header and one filler byte and returns the byte read. -/
def Obligations.StatusReadsComplete : Prop :=
  (∀ p ∈ statusHeaders, ∀ (s : State) (st b : Byte), s.life = .ready →
    Completes p.1 s [.spi [p.2, 0x00] [st, b]] (.byte b) .ready) ∧
  (∀ (a : Addr6) (s : State) (st b : Byte), s.life = .ready → 0x30 ≤ a.toNat → a.toNat ≤ 0x3D →
    Completes (.rds a) s [.spi [a.setWidth 8 ||| 0xC0, 0x00] [st, b]] (.byte b) .ready)

/-- R122, R124, R156, R158: the reads of configuration registers, PATABLE and the RX FIFO return the data bytes. -/
def Obligations.DataReadsComplete : Prop :=
  (∀ (a : Addr6) (s : State) (st b : Byte), s.life = .ready → a.toNat ≤ 0x2E →
    Completes (.rd1 a) s [.spi [a.setWidth 8 ||| 0x80, 0x00] [st, b]] (.byte b) .ready) ∧
  (∀ (a : Addr6) (n : Nat) (s : State) (st : Byte) (v : Bytes), s.life = .ready → 1 ≤ n → a.toNat + n - 1 ≤ 0x2E →
    Completes (.rdb a n) s [.spi ((a.setWidth 8 ||| 0xC0) :: List.replicate n 0x00) (st :: v)] (.bytes v) .ready) ∧
  (∀ (n : Nat) (s : State) (st : Byte) (v : Bytes), s.life = .ready → 1 ≤ n → n ≤ 8 →
    Completes (.rdbPatable n) s [.spi (0xFE :: List.replicate n 0x00) (st :: v)] (.bytes v) .ready) ∧
  (∀ (n : Nat) (s : State) (st : Byte) (v : Bytes), s.life = .ready → 1 ≤ n →
    Completes (.rdbRxFifo n) s [.spi (0xFF :: List.replicate n 0x00) (st :: v)] (.bytes v) .ready)

/-- R127, R157, R159, R121: the burst writes send the header and the data bytes unchanged, and return `()` where the echo
policy accepts the echo; under ADVISORY every echo is accepted, with its warnings. -/
def Obligations.BurstWritesComplete : Prop :=
  (∀ (a : Addr6) (v : Bytes) (s : State) (rx : Bytes), s.life = .ready → 1 ≤ v.length →
    a.toNat + v.length - 1 ≤ 0x2E →
    Completes (.wrb a v) s [.spi ((a.setWidth 8 ||| 0x40) :: v) rx] .unit .ready) ∧
  (∀ (v : Bytes) (s : State) (rx : Bytes), s.life = .ready → 1 ≤ v.length → v.length ≤ 8 →
    Completes (.wrbPatable v) s [.spi (0x7E :: v) rx] .unit .ready) ∧
  (∀ (v : Bytes) (s : State) (rx : Bytes), s.life = .ready → 1 ≤ v.length →
    Completes (.wrbTxFifo v) s [.spi (0x7F :: v) rx] .unit .ready)

/-! ## Field accessors -/

/-- R181, R204, R206, R208, R212, R214, R216, R218, R221, R224, R226, R229, R234, R287: the getters of one register. -/
def Obligations.RegisterGettersComplete : Prop :=
  ∀ (i : Instr) (h : Byte) (f : Byte → Value) (s : State) (st b : Byte), getterOf i = some (h, f) → s.life = .ready →
    Completes i s [.spi [h, 0x00] [st, b]] (f b) .ready

/-- R200, R202, R210, R231, R232: the getters that read a burst. -/
def Obligations.BurstGettersComplete : Prop :=
  (∀ (s : State) (st f2 f1 f0 : Byte), s.life = .ready →
    Completes .getFrequencyWord s [.spi [0xCD, 0x00, 0x00, 0x00] [st, f2, f1, f0]]
      (.word24 (BitVec.ofNat 24 (f2.toNat * 65536 + f1.toNat * 256 + f0.toNat))) .ready) ∧
  (∀ (s : State) (st b4 b3 : Byte), s.life = .ready →
    Completes .getSymbolRateFP s [.spi [0xD0, 0x00, 0x00] [st, b4, b3]] (.symbolRateFP b3 (b4.toNat % 16)) .ready) ∧
  (∀ (s : State) (st s1 s0 : Byte), s.life = .ready →
    Completes .getSyncWord s [.spi [0xC4, 0x00, 0x00] [st, s1, s0]] (.bytes [s1, s0]) .ready) ∧
  (∀ (s : State) (st : Byte) (t : Bytes), s.life = .ready →
    Completes .getPatable s [.spi (0xFE :: List.replicate 8 0x00) (st :: t)] (.bytes t) .ready) ∧
  (∀ (s : State) (st st' b : Byte) (t : Bytes), s.life = .ready →
    Completes .getOutputPower s [.spi (0xFE :: List.replicate 8 0x00) (st :: t), .spi [0xA2, 0x00] [st', b]]
      (.bytes (t.take (b.toNat % 8 + 1))) .ready)

/-- R261, R264, R265: the getters in physical units, with the formulas of R250, R252 and R254. -/
def Obligations.PhysicalGettersComplete : Prop :=
  (∀ (s : State) (st f2 f1 f0 : Byte) (q : Hz), s.life = .ready →
    q.val = ((f2.toNat * 65536 + f1.toNat * 256 + f0.toNat : Nat) : Rat) * s.cfg.crystalHz / 2 ^ 16 →
    Completes .getBaseFrequencyHz s [.spi [0xCD, 0x00, 0x00, 0x00] [st, f2, f1, f0]] (.hz q) .ready) ∧
  (∀ (s : State) (st b4 b3 : Byte) (q : Baud), s.life = .ready →
    q.val = ((256 + b3.toNat : Nat) : Rat) * 2 ^ (b4.toNat % 16) * s.cfg.crystalHz / 2 ^ 28 →
    Completes .getSymbolRateBaud s [.spi [0xD0, 0x00, 0x00] [st, b4, b3]] (.baud q) .ready) ∧
  (∀ (s : State) (st b : Byte) (q : Hz), s.life = .ready →
    q.val = (s.cfg.crystalHz : Rat) / (8 * (4 + (b.toNat / 16 % 4 : Nat)) * 2 ^ (b.toNat / 64)) →
    Completes .getFilterBandwidthHz s [.spi [0x90, 0x00] [st, b]] (.hz q) .ready)

/-- R182, R205, R207, R209, R213, R217, R219, R220, R222, R223, R225, R227, R228, R230, R235: the read-modify-write
setters read the register, write one byte back, and the bits outside the field keep the value read. -/
def Obligations.FieldSettersComplete : Prop :=
  ∀ (i : Instr) (a : Byte) (f : Byte → Byte) (s : State) (st b : Byte) (rx : Bytes), setterOf i = some (a, f) →
    s.life = .ready →
    Completes i s [.spi [a ||| 0x80, 0x00] [st, b], .spi [a ||| 0x40, f b] rx] .unit .ready

/-- R201, R211, R215: the setters that replace whole registers send one burst write and read nothing. -/
def Obligations.WholeRegisterSettersComplete : Prop :=
  ∀ (i : Instr) (tx : Bytes) (s : State) (rx : Bytes), wholeWriteOf i = some tx → s.life = .ready →
    Completes i s [.spi tx rx] .unit .ready

/-- R203, R263: the symbol-rate setters read MDMCFG4 and write MDMCFG4 and MDMCFG3, the upper four bits preserved. -/
def Obligations.SymbolRateSettersComplete : Prop :=
  (∀ (m e : Int) (s : State) (st b4 : Byte) (rx : Bytes), s.life = .ready → 0 ≤ m → m ≤ 255 → 0 ≤ e → e ≤ 15 →
    Completes (.setSymbolRateFP m e) s
      [.spi [0x90, 0x00] [st, b4], .spi [0x50, (b4 &&& 0xF0) ||| BitVec.ofInt 8 e, BitVec.ofInt 8 m] rx]
      .unit .ready) ∧
  (∀ (baud : Baud) (s : State) (st b4 : Byte) (rx : Bytes) (m e : Int), s.life = .ready →
    0 < baud.val → baudToFp s.cfg baud.val = (m, e) → 0 ≤ e → e ≤ 15 →
    Completes (.setSymbolRateBaud baud) s
      [.spi [0x90, 0x00] [st, b4], .spi [0x50, (b4 &&& 0xF0) ||| BitVec.ofInt 8 e, BitVec.ofInt 8 m] rx]
      .unit .ready)

/-- R260, R262: `SetBaseFrequencyHz` warns once, before the write, exactly when the requested frequency is below the
floor minus the tolerance, and writes the rounded word big-endian either way. -/
def Obligations.SetBaseFrequencyCompletes : Prop :=
  ∀ (hz : Hz) (w : Word24) (s : State) (rx : Bytes), s.life = .ready → hzToWord s.cfg hz = w.toNat →
    Completes (.setBaseFrequencyHz hz) s
      ((if hz.val < (s.cfg.txFloorHz : Rat) - s.cfg.txFloorToleranceHz then [.note (.frequencyBelowTxFloor hz)]
        else []) ++
        [.spi [0x4D, BitVec.ofNat 8 (w.toNat / 65536), BitVec.ofNat 8 (w.toNat / 256), BitVec.ofNat 8 w.toNat] rx])
      .unit .ready

/-- R233: `SetOutputPower` writes the table, then the index `len(values) - 1` by read-modify-write. -/
def Obligations.SetOutputPowerCompletes : Prop :=
  ∀ (values : List Int) (s : State) (rx : Bytes) (st b : Byte) (rx' : Bytes), s.life = .ready →
    1 ≤ values.length → values.length ≤ 8 → (∀ v ∈ values, 0 ≤ v ∧ v ≤ 255) →
    Completes (.setOutputPower values) s
      [.spi (0x7E :: values.map (BitVec.ofInt 8)) rx, .spi [0xA2, 0x00] [st, b],
       .spi [0x62, (b &&& 0xF8) ||| BitVec.ofNat 8 (values.length - 1)] rx'] .unit .ready

/-! ## Lifecycle -/

/-- The frames of `Open` up to the read of VERSION (43_lifecycle.md R282, R283). -/
def Sys2Proof.Machine.openIdentity (s0 s1 p s2 v : Byte) : List Interaction :=
  [.spi [0x30] [s0], .spi [0xF0, 0x00] [s1, p], .spi [0xF1, 0x00] [s2, v]]

/-- The eight frames of the default configuration, for the four bytes read (43_lifecycle.md R284). -/
def Sys2Proof.Machine.openDefaults (s0 b0 s1 b1 s2 b2 s3 b3 : Byte) (r0 r1 r2 r3 : Bytes) : List Interaction :=
  [.spi [0x92, 0x00] [s0, b0], .spi [0x52, (b0 &&& 0x8F) ||| 0x30] r0,
   .spi [0xA2, 0x00] [s1, b1], .spi [0x62, (b1 &&& 0xF8) ||| 0x01] r1,
   .spi [0x88, 0x00] [s2, b2], .spi [0x48, b2 &&& 0xBF] r2,
   .spi [0x98, 0x00] [s3, b3], .spi [0x58, (b3 &&& 0xCF) ||| 0x10] r3]

/-- R280, R282 to R285: `Open` from CLOSED, with an accepted identity and an idle chip, makes its twelve transfers and
leaves READY. -/
def Obligations.OpenCompletes : Prop :=
  ∀ (s : State) (s0 s1 p s2 v t0 b0 t1 b1 t2 b2 t3 b3 s3 m : Byte) (r0 r1 r2 r3 : Bytes),
    s.life = .closed → p = s.cfg.supportedPartnum → v ∈ s.cfg.versionWhitelist → m.toNat % 32 = 1 →
    Completes .openOp s
      (openIdentity s0 s1 p s2 v ++ openDefaults t0 b0 t1 b1 t2 b2 t3 b3 r0 r1 r2 r3 ++ [.spi [0xF5, 0x00] [s3, m]])
      .unit .ready

/-- R283, R285: `Open` fails, and leaves CLOSED, on another part number after two transfers, on another version after
three, and on a chip that is not idle after twelve. -/
def Obligations.OpenErrorsLeaveClosed : Prop :=
  (∀ (s : State) (s0 s1 p : Byte), s.life = .closed → p ≠ s.cfg.supportedPartnum →
    Fails .openOp s [.spi [0x30] [s0], .spi [0xF0, 0x00] [s1, p]]
      { kind := .partnum, reg := some 0x30, expected := some (.set [s.cfg.supportedPartnum]),
        actual := some (.byte p) } .closed) ∧
  (∀ (s : State) (s0 s1 p s2 v : Byte), s.life = .closed → p = s.cfg.supportedPartnum →
    v ∉ s.cfg.versionWhitelist →
    Fails .openOp s (openIdentity s0 s1 p s2 v)
      { kind := .version, reg := some 0x31, expected := some (.set s.cfg.versionWhitelist),
        actual := some (.byte v) } .closed) ∧
  (∀ (s : State) (s0 s1 p s2 v t0 b0 t1 b1 t2 b2 t3 b3 s3 m : Byte) (r0 r1 r2 r3 : Bytes),
    s.life = .closed → p = s.cfg.supportedPartnum → v ∈ s.cfg.versionWhitelist → m.toNat % 32 ≠ 1 →
    Fails .openOp s
      (openIdentity s0 s1 p s2 v ++ openDefaults t0 b0 t1 b1 t2 b2 t3 b3 r0 r1 r2 r3 ++ [.spi [0xF5, 0x00] [s3, m]])
      { kind := .notIdleAfterConfig, reg := some 0x35, actual := some (.byte m) } .closed)

/-- R286: `Close` returns `()` and leaves CLOSED: with no transfer from CLOSED, READY and FAULTED, after the end sequence
from ASYNC_TX. -/
def Obligations.CloseCompletes : Prop :=
  (∀ s : State, s.life ≠ .asyncTx → Completes .closeOp s [] .unit .closed) ∧
  (∀ (s : State) (st s1 p : Byte) (rx : Bytes), s.life = .asyncTx →
    Completes .closeOp s [.spi [0x36] [st], .spi [0x88, 0x00] [s1, p], .spi [0x48, p &&& 0xCF] rx] .unit .closed)

/-! ## Packets -/

/-- R311, R312: `Transmit` on its success path, in both packet-length modes. -/
def Obligations.TransmitCompletes : Prop :=
  ∀ (payload frame : Bytes) (s : State) (s0 p s1 max s2 m s3 s4 : Byte) (rx : Bytes), s.life = .ready →
    payload ≠ [] →
    (p.toNat % 4 = 1 ∧ payload.length ≤ max.toNat ∧ frame = BitVec.ofNat 8 payload.length :: payload ∨
      p.toNat % 4 = 0 ∧ payload.length = max.toNat ∧ frame = payload) →
    m.toNat % 32 = 1 →
    Completes (.transmit payload) s
      [.spi [0x88, 0x00] [s0, p], .spi [0x86, 0x00] [s1, max], .spi [0xF5, 0x00] [s2, m], .spi [0x3B] [s3],
       .spi (0x7F :: frame) rx, .spi [0x35] [s4]] .unit .ready

/-- R311: the failures of `Transmit` after its reads: the packet length, the packet-length mode, the chip's state. No
write or strobe has been sent, and the block stays READY. -/
def Obligations.TransmitFails : Prop :=
  (∀ (payload : Bytes) (s : State) (s0 p s1 max : Byte), s.life = .ready → payload ≠ [] → p.toNat % 4 = 1 →
    max.toNat < payload.length →
    Fails (.transmit payload) s [.spi [0x88, 0x00] [s0, p], .spi [0x86, 0x00] [s1, max]]
      { kind := .payloadTooLong, reg := some 0x06, value := some (.pair payload.length max.toNat) } .ready) ∧
  (∀ (payload : Bytes) (s : State) (s0 p s1 max : Byte), s.life = .ready → payload ≠ [] → p.toNat % 4 = 0 →
    payload.length ≠ max.toNat →
    Fails (.transmit payload) s [.spi [0x88, 0x00] [s0, p], .spi [0x86, 0x00] [s1, max]]
      { kind := .payloadLengthMismatch, reg := some 0x06, value := some (.pair payload.length max.toNat) } .ready) ∧
  (∀ (payload : Bytes) (s : State) (s0 p s1 max : Byte) (k : Nat), s.life = .ready → payload ≠ [] →
    k = p.toNat % 4 → 2 ≤ k →
    Fails (.transmit payload) s [.spi [0x88, 0x00] [s0, p], .spi [0x86, 0x00] [s1, max]]
      { kind := .unsupportedPacketLengthMode, reg := some 0x08, value := some (.int k) } .ready) ∧
  (∀ (payload : Bytes) (s : State) (s0 p s1 max s2 m : Byte), s.life = .ready → payload ≠ [] →
    (p.toNat % 4 = 1 ∧ payload.length ≤ max.toNat ∨ p.toNat % 4 = 0 ∧ payload.length = max.toNat) →
    m.toNat % 32 ≠ 1 →
    Fails (.transmit payload) s
      [.spi [0x88, 0x00] [s0, p], .spi [0x86, 0x00] [s1, max], .spi [0xF5, 0x00] [s2, m]]
      { kind := .notIdleTx, reg := some 0x35, actual := some (.byte m) } .ready)

/-- R320 to R322, R324: the four ends of `Receive`: a timeout, an edge with nothing to read, a packet, and a count of one,
which is ProtocolError SHORT_RX. -/
def Obligations.ReceiveOutcomes : Prop :=
  (∀ (tm : Timeout) (s : State) (s0 s1 : Byte), s.life = .ready →
    Completes (.receive tm) s [.spi [0x34] [s0], .gpio tm false, .spi [0x36] [s1]] .noPacket .ready) ∧
  (∀ (tm : Timeout) (s : State) (s0 s1 c : Byte), s.life = .ready → c.toNat % 128 = 0 →
    Completes (.receive tm) s [.spi [0x34] [s0], .gpio tm true, .spi [0xFB, 0x00] [s1, c]] .noPacket .ready) ∧
  (∀ (tm : Timeout) (s : State) (s0 s1 c s2 rssi lqi : Byte) (payload : Bytes), s.life = .ready →
    c.toNat % 128 = payload.length + 2 →
    Completes (.receive tm) s
      [.spi [0x34] [s0], .gpio tm true, .spi [0xFB, 0x00] [s1, c],
       .spi (0xFF :: List.replicate (payload.length + 2) 0x00) (s2 :: (payload ++ [rssi, lqi]))]
      (.packet ⟨payload, rssi, lqi.getLsbD 7, lqi.setWidth 7⟩) .ready) ∧
  (∀ (tm : Timeout) (s : State) (s0 s1 c : Byte), s.life = .ready → c.toNat % 128 = 1 →
    Fails (.receive tm) s [.spi [0x34] [s0], .gpio tm true, .spi [0xFB, 0x00] [s1, c]]
      { kind := .shortRx, reg := some 0x3B, actual := some (.int 1) } .faulted)

/-- R330, R331: the asynchronous scope: switch the mode and start; stop and restore FIFO mode. -/
def Obligations.AsyncTxCompletes : Prop :=
  (∀ (s : State) (s0 p s1 : Byte) (rx : Bytes), s.life = .ready →
    Completes .asyncTxBegin s
      [.spi [0x88, 0x00] [s0, p], .spi [0x48, (p &&& 0xCF) ||| 0x30] rx, .spi [0x35] [s1]] .unit .asyncTx) ∧
  (∀ (s : State) (s0 s1 p : Byte) (rx : Bytes), s.life = .asyncTx →
    Completes .asyncTxEnd s
      [.spi [0x36] [s0], .spi [0x88, 0x00] [s1, p], .spi [0x48, p &&& 0xCF] rx] .unit .ready)

/-! ## Fields, codes and pure functions -/

/-- R180, R182: a merged byte has the field's new value, keeps every bit outside the field, and setting a field to its
current value changes nothing. -/
def Obligations.MergeLaws : Prop :=
  ∀ (f : Field) (b : Byte) (v : Nat), f.lo ≤ f.hi → f.hi ≤ 7 → v < 2 ^ (f.hi - f.lo + 1) →
    fieldOf (merge b f v) f = v ∧
    (∀ k, (k < f.lo ∨ f.hi < k) → (merge b f v).getLsbD k = b.getLsbD k) ∧
    merge b f (fieldOf b f) = b

/-- R193 to R197, R199, R288: the code tables, each name with its code both ways; a code no name has reads as unknown,
and a preamble length the table lacks has no code. -/
def Obligations.CodeTables : Prop :=
  (∀ p ∈ ([(.fifo, 0), (.synchronousSerial, 1), (.randomTransmission, 2), (.asynchronousSerial, 3)] :
      List (TransceiveMode × Nat)), transceiveCode p.1 = p.2 ∧ transceiveOfCode p.2 = .known p.1) ∧
  (∀ p ∈ ([(.fsk2, 0), (.gfsk, 1), (.askOok, 3), (.fsk4, 4), (.msk, 7)] : List (ModulationFormat × Nat)),
    modulationCode p.1 = p.2 ∧ modulationOfCode p.2 = .known p.1) ∧
  (∀ p ∈ ([(.noPreambleAndSyncWord, 0), (.transmit16Match15Bits, 1), (.transmit16Match16Bits, 2),
      (.transmit32Match30Bits, 3)] : List (SyncMode × Nat)),
    syncModeCode p.1 = p.2 ∧ syncModeOfCode p.2 = .known p.1) ∧
  (∀ p ∈ ([(.fixed, 0), (.variable, 1)] : List (PacketLengthMode × Nat)),
    packetLengthModeCode p.1 = p.2 ∧ packetLengthModeOfCode p.2 = .known p.1) ∧
  (∀ p ∈ ([(0, 2), (1, 3), (2, 4), (3, 6), (4, 8), (5, 12), (6, 16), (7, 24)] : List (Nat × Nat)),
    preambleOfCode p.1 = p.2 ∧ preambleCode? p.2 = some p.1) ∧
  (∀ p ∈ ([(.sleep, 0), (.idle, 1), (.xoff, 2), (.vcoonMc, 3), (.regonMc, 4), (.mancal, 5), (.vcoon, 6), (.regon, 7),
      (.startcal, 8), (.bwboost, 9), (.fsLock, 10), (.ifadcon, 11), (.endcal, 12), (.rx, 13), (.rxEnd, 14), (.rxRst, 15),
      (.txrxSwitch, 16), (.rxfifoOverflow, 17), (.fstxon, 18), (.tx, 19), (.txEnd, 20), (.rxtxSwitch, 21),
      (.txfifoUnderflow, 22)] : List (MarcState × Nat)), marcOfCode p.2 = .known p.1) ∧
  (∀ k, k ∉ [0, 1, 3, 4, 7] → modulationOfCode k = .unknown k) ∧
  (∀ k, 2 ≤ k → packetLengthModeOfCode k = .unknown k) ∧
  (∀ k, 23 ≤ k → marcOfCode k = .unknown k) ∧
  (∀ nbytes : Int, nbytes ∉ ([2, 3, 4, 6, 8, 12, 16, 24] : List Int) → preambleCode? nbytes = none)

/-- R11: `round` gives a nearest integer, the even one of two, and `flog2` the exponent of the power of two below. -/
def Obligations.RoundingAndLogarithm : Prop :=
  (∀ q : Rat, |(roundHalfEven q : Rat) - q| ≤ 1 / 2 ∧
    (|(roundHalfEven q : Rat) - q| = 1 / 2 → 2 ∣ roundHalfEven q)) ∧
  (∀ q : Rat, 0 < q → (2 : Rat) ^ flog2 q ≤ q ∧ q < (2 : Rat) ^ (flog2 q + 1))

/-- R250 to R252, R254: the conversion formulas over the rationals. -/
def Obligations.ConversionFormulas : Prop :=
  ∀ c : Config,
    (∀ w : Word24, (wordToHz c w).val = w.toNat * c.crystalHz / 2 ^ 16) ∧
    (∀ hz : Hz, hzToWord c hz = roundHalfEven (hz.val / (c.crystalHz / 2 ^ 16))) ∧
    (∀ (m : Byte) (e : Nat), (fpToBaud c m e).val = (256 + m.toNat) * 2 ^ e * c.crystalHz / 2 ^ 28) ∧
    (∀ m e : Nat, (filterBwHz c m e).val = c.crystalHz / (8 * (4 + m) * 2 ^ e))

/-- R256 (a), (b), the spec's own inferences from R250 and R251: a frequency word survives the round trip, and a frequency
comes back within half a step. -/
def Obligations.FrequencyRoundTrips : Prop :=
  ∀ c : Config,
    (∀ w : Word24, hzToWord c (wordToHz c w) = w.toNat) ∧
    (∀ (hz : Hz) (w : Word24), hzToWord c hz = w.toNat → |(wordToHz c w).val - hz.val| ≤ freqFactor c / 2)

/-- R253: `BaudToFp` with its carry. Then the spec's own inferences of R253 and R256 (c), (d), (e): the mantissa is always
a byte; the round trip; doubling and halving move the exponent alone. -/
def Obligations.SymbolRateConversion : Prop :=
  ∀ c : Config,
    (∀ (baud : Rat) (m e : Int), 0 < baud → e = flog2 (baud / c.crystalHz) + 20 →
      m = roundHalfEven (baud * 2 ^ 28 / c.crystalHz / 2 ^ e - 256) →
      baudToFp c baud = if m = 256 then (0, e + 1) else (m, e)) ∧
    (∀ baud : Rat, 0 < baud → 0 ≤ (baudToFp c baud).1 ∧ (baudToFp c baud).1 ≤ 255) ∧
    (∀ (m : Byte) (e : Nat), baudToFp c (fpToBaud c m e).val = ((m.toNat : Int), (e : Int))) ∧
    (∀ (m : Byte) (e : Nat), baudToFp c (2 * (fpToBaud c m e).val) = ((m.toNat : Int), (e : Int) + 1)) ∧
    (∀ (m : Byte) (e : Nat), baudToFp c ((fpToBaud c m e).val / 2) = ((m.toNat : Int), (e : Int) - 1))

/-- R322, R323: the parsing of a received packet and the RSSI conversion. -/
def Obligations.PacketParsing : Prop :=
  (∀ (payload : Bytes) (rssi lqi : Byte),
    parsePacket (payload ++ [rssi, lqi]) = ⟨payload, rssi, lqi.getLsbD 7, lqi.setWidth 7⟩) ∧
  (∀ i : Byte, rssiDbm i = if i.toNat ≤ 127 then (i.toNat : Rat) / 2 - 74 else ((i.toNat : Rat) - 256) / 2 - 74) ∧
  rssiDbm 204 = -100 ∧ rssiDbm 128 = -138 ∧ rssiDbm 0 = -74

/-! ## The reference responder -/

/-- R57, R71: a configuration burst write to the responder changes the registers written, byte i at a + i, and nothing
else; a PATABLE write its first entries alone; a FIFO write appends. Every answer is status bytes. -/
def Obligations.ResponderWrites : Prop :=
  ∀ r : Responder, Memory.wf .config r.regs = true → Memory.wf .patable r.patable = true →
    (∀ (a : Addr6) (v : Bytes), 1 ≤ v.length → a.toNat + v.length - 1 ≤ 0x2E →
      ∃ regs, r.answer ((a.setWidth 8 ||| 0x40) :: v) =
          (List.replicate (v.length + 1) r.status, { r with regs := regs }) ∧
        ∀ x, memRead .config regs x =
          if a.toNat ≤ x ∧ x < a.toNat + v.length then v.getD (x - a.toNat) 0 else memRead .config r.regs x) ∧
    (∀ v : Bytes, 1 ≤ v.length → v.length ≤ 8 →
      ∃ patable, r.answer (0x7E :: v) = (List.replicate (v.length + 1) r.status, { r with patable := patable }) ∧
        ∀ x, memRead .patable patable x = if x < v.length then v.getD x 0 else memRead .patable r.patable x) ∧
    (∀ v : Bytes, 1 ≤ v.length →
      r.answer (0x7F :: v) = (List.replicate (v.length + 1) r.status, { r with txq := r.txq ++ v }))

/-- R71: the responder's reads: registers and PATABLE as they are and every status register's byte, changing nothing; the
RX FIFO oldest first, zero for a missing byte, leaving RR idle (`marc` 0x01) when the queue is then empty. A queue of more
than 255 bytes has no stated count (log entry 10). -/
def Obligations.ResponderReads : Prop :=
  ∀ r : Responder,
    (∀ a : Addr6, a.toNat ≤ 0x2E →
      r.answer [a.setWidth 8 ||| 0x80, 0x00] = ([r.status, memRead .config r.regs a.toNat], r)) ∧
    (∀ (a : Addr6) (n : Nat), 1 ≤ n → a.toNat + n - 1 ≤ 0x2E →
      r.answer ((a.setWidth 8 ||| 0xC0) :: List.replicate n 0x00) =
        (r.status :: (List.range n).map (fun k => memRead .config r.regs (a.toNat + k)), r)) ∧
    (∀ n : Nat, 1 ≤ n → n ≤ 8 →
      r.answer (0xFE :: List.replicate n 0x00) =
        (r.status :: (List.range n).map (fun k => memRead .patable r.patable k), r)) ∧
    (∀ n : Nat, 1 ≤ n →
      r.answer (0xFF :: List.replicate n 0x00) =
        (r.status :: (List.range n).map (fun k => r.rxq.getD k 0x00),
          { r with rxq := r.rxq.drop n, marc := if r.rxq.length ≤ n then 0x01 else r.marc })) ∧
    r.answer [0xF0, 0x00] = ([r.status, 0x00], r) ∧
    r.answer [0xF1, 0x00] = ([r.status, r.version], r) ∧
    r.answer [0xF5, 0x00] = ([r.status, r.marc], r) ∧
    (r.txq.length ≤ 255 → r.answer [0xFA, 0x00] = ([r.status, BitVec.ofNat 8 r.txq.length], r)) ∧
    (r.rxq.length ≤ 255 → r.answer [0xFB, 0x00] = ([r.status, BitVec.ofNat 8 r.rxq.length], r)) ∧
    (∀ h ∈ ([0xF2, 0xF3, 0xF4, 0xF6, 0xF7, 0xF8, 0xF9, 0xFC, 0xFD] : List Byte),
      r.answer [h, 0x00] = ([r.status, 0x00], r))

/-- R72: the responder's strobe effects and its edges. After SRES the registers and PATABLE read as R52 and R55 write them
out; that the empty lists stand for those contents is the model's choice (DESIGN CHOICE, log entry 12). -/
def Obligations.ResponderStrobes : Prop :=
  ∀ (r : Responder) (tr : List Event) (tm : Timeout),
    r.answer [0x30] = ([r.status], { r with regs := [], patable := [], txq := [], rxq := [], marc := 0x01 }) ∧
    (List.range 47).map (memRead .config (r.answer [0x30]).2.regs) = registersAtReset ∧
    (List.range 8).map (memRead .patable (r.answer [0x30]).2.patable) = tableAtReset ∧
    r.answer [0x3B] = ([r.status], { r with txq := [] }) ∧
    r.answer [0x3A] = ([r.status], { r with rxq := [] }) ∧
    r.answer [0x35] = ([r.status], { r with marc := 0x13, txq := [] }) ∧
    (r.packets = [] → r.answer [0x34] = ([r.status], { r with marc := 0x0D })) ∧
    (∀ p ps, r.packets = p :: ps →
      r.answer [0x34] = ([r.status], { r with marc := 0x0D, packets := ps, rxq := r.rxq ++ p })) ∧
    r.answer [0x36] = ([r.status], { r with marc := 0x01 }) ∧
    (∀ h ∈ ([0x31, 0x32, 0x33, 0x38, 0x39, 0x3C, 0x3D] : List Byte), r.answer [h] = ([r.status], r)) ∧
    (r.gpio = [] → (Environment.responder r).answerGpio tr tm = (false, .responder r)) ∧
    (∀ b bs, r.gpio = b :: bs →
      (Environment.responder r).answerGpio tr tm = (b, .responder { r with gpio := bs }))

/-- Under the responder no operation meets a response of a wrong length or an echo the policy rejects (for MATCH_0F, where
the responder's status byte is 0x0F): SHORT_RX is the only ProtocolError left. The responder stays one. -/
def Obligations.ResponderKeepsProtocol : Prop :=
  ∀ (i : Instr) (s t : State) (r : Responder), s.env = .responder r →
    (s.cfg.echoPolicy = .match0F → r.status = 0x0F) → exec i s = .next t →
    (∃ r', t.env = .responder r' ∧ r'.status = r.status) ∧
    (∀ e, Event.errorRaised e ∈ newEvents s t → kindClass e.info.kind = .protocolError → e.info.kind = .shortRx) ∧
    (∀ w, Event.warning w ∈ newEvents s t → ∃ hz, w = .frequencyBelowTxFloor hz)

/-- Under the responder a setter followed by its getter gives back the value set, for every field that has both: the raw
fields, the output power, and the frequency and the symbol rate in physical units (as their hardware words give them). A
`SetSyncMode` without a carrier-sense argument gives back the bit as it was. -/
def Obligations.SetterThenGetter : Prop :=
  ∀ (i g : Instr) (v : Value) (s t : State) (r : Responder), s.life = .ready → s.env = .responder r →
    readBack s.cfg (memRead .config r.regs 0x12) i = some (g, v) → Memory.wf .config r.regs = true →
    Memory.wf .patable r.patable = true → (s.cfg.echoPolicy = .match0F → r.status = 0x0F) →
    exec i s = .next t →
    ∃ u, exec g t = .next u ∧ u.trace.getLast? = some (.opEnd (.ok v)) ∧ u.life = .ready

/-! ## The chip status byte, and the responder at its creation -/

/-- R85 to R87: the three fields of the chip status byte, and the names of the STATE codes (R86 takes them from general
knowledge). No operation reads them; that they are functions beside the logged byte is log entry 15. -/
def Obligations.ChipStatusFields : Prop :=
  ∀ b : Byte, chipNotReady b = b.getLsbD 7 ∧ fifoBytesAvailable b = b.toNat % 16 ∧
    (∀ p ∈ ([(0, .idle), (1, .rx), (2, .tx), (3, .fstxon), (4, .calibrate), (5, .settling), (6, .rxfifoOverflow),
        (7, .txfifoUnderflow)] : List (Nat × ChipState)), chipState b = p.2 ↔ b.toNat / 16 % 8 = p.1) ∧
    b.toNat = 128 * (chipNotReady b).toNat + 16 * (b.toNat / 16 % 8) + fifoBytesAvailable b

/-- R70: a responder just created, with the packets and edges a test supplies. The empty lists of `regs` and `patable`
stand for the reset contents of R52 and R55 (DESIGN CHOICE, log entry 12); what they read as is written out. -/
def Obligations.ResponderAtCreation : Prop :=
  ∀ (packets : List Bytes) (gpio : List Bool),
    Responder.initial packets gpio =
      { regs := [], patable := [], txq := [], rxq := [], packets := packets, marc := 0x01, status := 0x0F,
        version := 0x14, gpio := gpio } ∧
    (List.range 47).map (memRead .config (Responder.initial packets gpio).regs) = registersAtReset ∧
    (List.range 8).map (memRead .patable (Responder.initial packets gpio).patable) = tableAtReset
end

