-- ==== Sys2Proof/Laws/Conversions.lean ====
section
/-! SUPPORT. Small lemmas of the conversions: `pow2` is the integer power of two; rates and frequencies are equal when
their values are. -/

namespace Sys2Proof.Machine

theorem pow2_eq_zpow (e : Int) : pow2 e = (2 : Rat) ^ e := by
  cases e with
  | ofNat n => simp [pow2]
  | negSucc n => simp [pow2, zpow_negSucc]

theorem pow2_pos (e : Int) : 0 < pow2 e := by
  rw [pow2_eq_zpow]; positivity

theorem hz_ext {p q : Hz} (h : p.val = q.val) : p = q := by
  cases p; cases q; simp only at h; subst h; rfl

theorem baud_ext {p q : Baud} (h : p.val = q.val) : p = q := by
  cases p; cases q; simp only at h; subst h; rfl

/-- A crystal that oscillates gives a positive frequency step (00_scope.md R6). -/
theorem freqFactor_pos (c : Config) : 0 < freqFactor c := by
  have : (0 : Rat) < c.crystalHz := by exact_mod_cast c.crystalPos
  unfold freqFactor; positivity

end Sys2Proof.Machine
end

