-- ==== Sys2Proof/Laws/Decode.lean ====
section
/-! SUPPORT. Small lemmas of the header byte, the forms and the frames. -/

namespace Sys2Proof

@[simp] theorem headerMode_header (m : Mode) (a : Addr6) : headerMode (header m a) = m := by
  cases m <;> revert a <;> decide

@[simp] theorem headerAddr_header (m : Mode) (a : Addr6) : headerAddr (header m a) = a := by
  cases m <;> revert a <;> decide

theorem header_headerMode (h : Byte) : header (headerMode h) (headerAddr h) = h := by
  revert h; decide

/-- The form of a frame built from a header. -/
@[simp] theorem formOf_header (m : Mode) (a : Addr6) (data : Bytes) : formOf (header m a) data = ⟨m, a, data.length⟩ := by
  simp [formOf]

@[simp] theorem frameReadSingle_length (a : Addr6) : (frameReadSingle a).length = 2 := rfl
@[simp] theorem frameReadStatus_length (a : Addr6) : (frameReadStatus a).length = 2 := rfl
@[simp] theorem frameStrobe_length (a : Addr6) : (frameStrobe a).length = 1 := rfl
@[simp] theorem frameReadBurst_length (a : Addr6) (n : Nat) : (frameReadBurst a n).length = n + 1 := by
  simp [frameReadBurst]
@[simp] theorem frameWriteBurst_length (a : Addr6) (v : Bytes) : (frameWriteBurst a v).length = v.length + 1 := rfl

theorem legalFrame_readSingle (a : Addr6) : legalFrame (frameReadSingle a) = decide (a.toNat ≤ 0x2E) := by
  simp [legalFrame, frameReadSingle, legalForm]

theorem legalFrame_strobe (a : Addr6) :
    legalFrame (frameStrobe a) = decide (0x30 ≤ a.toNat ∧ a.toNat ≤ 0x3D ∧ a.toNat ≠ 0x37) := by
  simp [legalFrame, frameStrobe, legalForm]

theorem legalFrame_readBurst (a : Addr6) (n : Nat) :
    legalFrame (frameReadBurst a n) = legalForm ⟨.readBurst, a, n⟩ := by
  simp [legalFrame, frameReadBurst]

theorem legalFrame_readStatus (a : Addr6) : legalFrame (frameReadStatus a) = legalForm ⟨.readBurst, a, 1⟩ := by
  simp [legalFrame, frameReadStatus]

theorem legalFrame_writeBurst (a : Addr6) (v : Bytes) :
    legalFrame (frameWriteBurst a v) = legalForm ⟨.writeBurst, a, v.length⟩ := by
  simp [legalFrame, frameWriteBurst]

/-- A status address is one of the table's fourteen. -/
theorem StatusReg.ofAddr?_isSome (a : Addr6) :
    (StatusReg.ofAddr? a).isSome = decide (0x30 ≤ a.toNat ∧ a.toNat ≤ 0x3D) := by
  revert a; decide

/-- A strobe address is one of the table's thirteen. -/
theorem StrobeCmd.ofAddr?_isSome (a : Addr6) :
    (StrobeCmd.ofAddr? a).isSome = decide (0x30 ≤ a.toNat ∧ a.toNat ≤ 0x3D ∧ a.toNat ≠ 0x37) := by
  revert a; decide

@[simp] theorem StatusReg.ofAddr?_address (r : StatusReg) : StatusReg.ofAddr? r.address = some r := by
  cases r <;> rfl

@[simp] theorem StrobeCmd.ofAddr?_address (c : StrobeCmd) : StrobeCmd.ofAddr? c.address = some c := by
  cases c <;> rfl

theorem StatusReg.address_of_ofAddr? {a : Addr6} {r : StatusReg} (h : StatusReg.ofAddr? a = some r) : r.address = a := by
  revert a; cases r <;> decide

theorem StrobeCmd.address_of_ofAddr? {a : Addr6} {c : StrobeCmd} (h : StrobeCmd.ofAddr? a = some c) : c.address = a := by
  revert a; cases c <;> decide

end Sys2Proof
end

