-- ==== Sys2Proof/Laws/Memory.lean ====
section
/-! SUPPORT. Laws of the remote memories: reading after writing, and that every memory operation keeps the canonical form. -/

namespace Sys2Proof.Machine

variable (k : Bank)

theorem memWfFrom_mono {lo lo' : Nat} (h : lo' ≤ lo) : ∀ {m : Memory}, memWfFrom k lo m = true → memWfFrom k lo' m = true
  | [], _ => rfl
  | (a, v) :: m, hm => by
      simp only [memWfFrom, Bool.and_eq_true, decide_eq_true_eq] at hm ⊢
      exact ⟨⟨by omega, hm.1.2⟩, hm.2⟩

/-- An address below all those listed reads as after chip reset. -/
theorem memRead_below {a : Nat} : ∀ {lo : Nat} {m : Memory}, memWfFrom k lo m = true → a < lo → memRead k m a = bankReset k a
  | _, [], _, _ => rfl
  | lo, (b, v) :: m, hm, h => by
      simp only [memWfFrom, Bool.and_eq_true, decide_eq_true_eq] at hm
      have hne : a ≠ b := by omega
      rw [memRead, if_neg hne]
      exact memRead_below hm.2 (by omega)

theorem memRead_memInsert (a x : Nat) (v : Byte) : ∀ m : Memory,
    memRead k (memInsert a v m) x = if x = a then v else memRead k m x
  | [] => by simp only [memInsert, memRead]
  | (b, w) :: m => by
      have ih := memRead_memInsert a x v m
      unfold memInsert
      split
      · simp only [memRead]
      · split
        · rename_i h; subst h; simp only [memRead]; split <;> rfl
        · rename_i h1 h2
          simp only [memRead, ih]
          by_cases hx : x = b
          · subst hx
            rw [if_pos rfl, if_neg (by omega), if_pos rfl]
          · simp [hx]

theorem memRead_memErase (a x : Nat) : ∀ {lo : Nat} {m : Memory}, memWfFrom k lo m = true →
    memRead k (memErase a m) x = if x = a then bankReset k a else memRead k m x
  | _, [], _ => by simp only [memErase, memRead]; split <;> simp_all
  | lo, (b, w) :: m, hm => by
      simp only [memWfFrom, Bool.and_eq_true, decide_eq_true_eq] at hm
      have ih := memRead_memErase a x hm.2
      unfold memErase
      split
      · rename_i h; subst h
        by_cases hx : x = a
        · subst hx; simp only [if_true]; exact memRead_below k hm.2 (by omega)
        · simp [memRead, hx]
      · rename_i h
        simp only [memRead, ih]
        by_cases hx : x = b
        · subst hx
          rw [if_pos rfl, if_neg (by omega), if_pos rfl]
        · simp [hx]

/-- Reading after a write. -/
theorem memRead_memWrite {lo : Nat} {m : Memory} (hm : memWfFrom k lo m = true) (a x : Nat) (v : Byte) :
    memRead k (memWrite k m a v) x = if x = a then v else memRead k m x := by
  unfold memWrite
  split
  · rename_i h; rw [memRead_memErase k a x hm, h]
  · exact memRead_memInsert k a x v m

theorem memErase_wf (a : Nat) : ∀ {lo : Nat} {m : Memory}, memWfFrom k lo m = true → memWfFrom k lo (memErase a m) = true
  | _, [], _ => rfl
  | lo, (b, w) :: m, hm => by
      have hm' := hm
      simp only [memWfFrom, Bool.and_eq_true, decide_eq_true_eq] at hm'
      unfold memErase
      split
      · exact memWfFrom_mono k (by omega) hm'.2
      · simp only [memWfFrom, Bool.and_eq_true, decide_eq_true_eq]
        exact ⟨hm'.1, memErase_wf a hm'.2⟩

theorem memInsert_wf {a : Nat} {v : Byte} (ha : a < bankSize k) (hv : v ≠ bankReset k a) :
    ∀ {lo : Nat} {m : Memory}, lo ≤ a → memWfFrom k lo m = true → memWfFrom k lo (memInsert a v m) = true
  | lo, [], hlo, _ => by simp [memInsert, memWfFrom, hlo, ha, hv]
  | lo, (b, w) :: m, hlo, hm => by
      simp only [memWfFrom, Bool.and_eq_true, decide_eq_true_eq] at hm
      unfold memInsert
      split
      · simp only [memWfFrom, Bool.and_eq_true, decide_eq_true_eq]
        exact ⟨⟨hlo, ha, hv⟩, ⟨by omega, hm.1.2⟩, hm.2⟩
      · split
        · rename_i h; subst h
          simp only [memWfFrom, Bool.and_eq_true, decide_eq_true_eq]
          exact ⟨⟨hlo, ha, hv⟩, hm.2⟩
        · simp only [memWfFrom, Bool.and_eq_true, decide_eq_true_eq]
          exact ⟨hm.1, memInsert_wf ha hv (by omega) hm.2⟩

/-- A write inside the bank keeps the canonical form. -/
theorem memWrite_wf {m : Memory} {a : Nat} (ha : a < bankSize k) (v : Byte) (hm : Memory.wf k m = true) :
    Memory.wf k (memWrite k m a v) = true := by
  unfold Memory.wf memWrite at *
  split
  · exact memErase_wf k a hm
  · rename_i h; exact memInsert_wf k ha h (by omega) hm

/-- A burst inside the bank keeps the canonical form. -/
theorem memWriteBytes_wf : ∀ {vs : Bytes} {a : Nat} {m : Memory}, a + vs.length ≤ bankSize k → Memory.wf k m = true →
    Memory.wf k (memWriteBytes k m a vs) = true
  | [], _, _, _, hm => hm
  | v :: vs, a, m, h, hm => by
      simp only [List.length_cons] at h
      rw [memWriteBytes]
      exact memWriteBytes_wf (by omega) (memWrite_wf k (a := a) (by omega) v hm)

/-- Reading after a burst: inside it the byte written, outside it what was there. -/
theorem memRead_memWriteBytes (x : Nat) : ∀ {vs : Bytes} {a : Nat} {m : Memory}, a + vs.length ≤ bankSize k →
    Memory.wf k m = true →
    memRead k (memWriteBytes k m a vs) x =
      if a ≤ x ∧ x < a + vs.length then vs.getD (x - a) 0 else memRead k m x
  | [], a, m, _, _ => by simp [memWriteBytes]
  | v :: vs, a, m, h, hm => by
      simp only [List.length_cons] at h
      have hw := memWrite_wf k (a := a) (by omega) v hm
      rw [memWriteBytes, memRead_memWriteBytes x (by omega) hw, memRead_memWrite k hm]
      by_cases hx : x = a
      · subst hx; simp
      · by_cases h1 : a + 1 ≤ x ∧ x < a + 1 + vs.length
        · have h2 : a ≤ x ∧ x < a + (v :: vs).length := by simp only [List.length_cons]; omega
          rw [if_pos h1, if_pos h2]
          obtain ⟨j, rfl⟩ : ∃ j, x = a + 1 + j := ⟨x - (a + 1), by omega⟩
          have e1 : a + 1 + j - (a + 1) = j := by omega
          have e2 : a + 1 + j - a = j + 1 := by omega
          rw [e1, e2]; rfl
        · have h2 : ¬(a ≤ x ∧ x < a + (v :: vs).length) := by simp only [List.length_cons]; omega
          rw [if_neg h1, if_neg h2, if_neg hx]

@[simp] theorem memReadBytes_length : ∀ (m : Memory) (a n : Nat), (memReadBytes k m a n).length = n
  | _, _, 0 => rfl
  | m, a, n + 1 => by simp [memReadBytes, memReadBytes_length m (a + 1) n]

/-- Byte `i` of a burst read is the byte at `a + i`. -/
theorem memReadBytes_getD : ∀ (m : Memory) (a n i : Nat), i < n → (memReadBytes k m a n).getD i 0 = memRead k m (a + i)
  | _, _, 0, _, h => by omega
  | m, a, n + 1, 0, _ => by simp [memReadBytes]
  | m, a, n + 1, i + 1, h => by
      have := memReadBytes_getD m (a + 1) n i (by omega)
      simp only [memReadBytes, List.getD_cons_succ, this]
      congr 1; omega

end Sys2Proof.Machine
end

