-- ==== Sys2Proof/Laws/Environment.lean ====
section
/-! SUPPORT. Laws of the oracle: the reference responder answers a frame with one of its own length, and keeps its
memories canonical. -/

namespace Sys2Proof.Machine

@[simp] theorem popBytes_length (n : Nat) (q : Bytes) : (popBytes n q).length = n := by
  simp [popBytes]

@[simp] theorem Responder.data_length (r : Responder) (f : Form) : (r.data f).length = f.n := by
  simp only [Responder.data]
  repeat' split
  all_goals simp

/-- RR answers with as many bytes as it is sent (20_memory.md R71). -/
theorem Responder.answer_length (r : Responder) (tx : Bytes) : (r.answer tx).1.length = tx.length := by
  cases tx with
  | nil => rfl
  | cons h data => simp only [Responder.answer]; split <;> simp [formOf]

/-- RR's answer to a frame of a legal form (20_memory.md R71). -/
theorem Responder.answer_legal (r : Responder) {h : Byte} {data : Bytes} (hl : legalForm (formOf h data) = true) :
    r.answer (h :: data) = (r.status :: r.data (formOf h data), r.effect (formOf h data) data) := by
  simp only [Responder.answer, if_pos hl]

/-- RR's memories are in canonical form. -/
def Responder.Canonical (r : Responder) : Prop :=
  Memory.wf .config r.regs = true ∧ Memory.wf .patable r.patable = true

theorem Environment.wf_responder (r : Responder) : (Environment.responder r).wf = true ↔ r.Canonical := by
  simp [Environment.wf, Responder.Canonical]

theorem Responder.initial_canonical (packets : List Bytes) (gpio : List Bool) :
    (Responder.initial packets gpio).Canonical := ⟨rfl, rfl⟩

theorem Responder.strobe_canonical {r : Responder} (h : r.Canonical) (c : StrobeCmd) : (r.strobe c).Canonical := by
  cases c with
  | sres => exact ⟨rfl, rfl⟩
  | srx => simp only [Responder.strobe]; split <;> exact h
  | _ => exact h

theorem Responder.effect_canonical {r : Responder} (h : r.Canonical) (f : Form) (data : Bytes)
    (hn : f.n = data.length) (hl : legalForm f = true) : (r.effect f data).Canonical := by
  obtain ⟨m, a, n⟩ := f
  subst hn
  cases m with
  | readSingle => exact h
  | readBurst => simp only [Responder.effect]; split <;> exact h
  | writeSingle =>
      simp only [Responder.effect]
      split
      · exact Responder.strobe_canonical h _
      · exact h
  | writeBurst =>
      have hl' : (a.toNat ≤ 0x2E ∧ 1 ≤ data.length ∧ a.toNat + data.length - 1 ≤ 0x2E) ∨
          (a.toNat = 0x3E ∧ 1 ≤ data.length ∧ data.length ≤ 8) ∨ (a.toNat = 0x3F ∧ 1 ≤ data.length) := by
        simp only [legalForm, Bool.or_eq_true] at hl
        exact (or_assoc.1 hl).imp of_decide_eq_true (Or.imp of_decide_eq_true of_decide_eq_true)
      simp only [Responder.effect]
      split
      · rename_i ha
        have : a.toNat = 0x3E := by rw [ha]; rfl
        have hb : 0 + data.length ≤ bankSize .patable := by simp only [bankSize]; omega
        exact ⟨h.1, memWriteBytes_wf _ hb h.2⟩
      · split
        · exact h
        · rename_i h1 h2
          have e1 : a.toNat ≠ 0x3E := fun e => h1 (BitVec.eq_of_toNat_eq e)
          have e2 : a.toNat ≠ 0x3F := fun e => h2 (BitVec.eq_of_toNat_eq e)
          have hb : a.toNat + data.length ≤ bankSize .config := by simp only [bankSize]; omega
          exact ⟨memWriteBytes_wf _ hb h.1, h.2⟩

theorem Responder.answer_canonical {r : Responder} (h : r.Canonical) (tx : Bytes) : (r.answer tx).2.Canonical := by
  cases tx with
  | nil => exact h
  | cons b data =>
      simp only [Responder.answer]
      split
      · rename_i hl; exact Responder.effect_canonical h _ _ rfl hl
      · exact h

/-- Answering a transfer keeps the oracle canonical. -/
theorem Environment.answerSpi_wf {env : Environment} (h : env.wf = true) (tr : List Event) (tx : Bytes) :
    (env.answerSpi tr tx).2.wf = true := by
  cases env with
  | scripted spi gpio choice => cases spi <;> rfl
  | responder r =>
      rw [Environment.wf_responder] at h
      exact (Environment.wf_responder _).2 (Responder.answer_canonical h tx)

/-- Answering a wait keeps the oracle canonical. -/
theorem Environment.answerGpio_wf {env : Environment} (h : env.wf = true) (tr : List Event) (t : Timeout) :
    (env.answerGpio tr t).2.wf = true := by
  cases env with
  | scripted spi gpio choice => cases gpio <;> rfl
  | responder r =>
      simp only [Environment.answerGpio]
      split <;> exact h

end Sys2Proof.Machine
end

