-- ==== Sys2Proof/Laws/State.lean ====
section
/-! SUPPORT. One lemma per field per update of the state, so that no proof unfolds a record update. -/

namespace Sys2Proof.Machine

variable (s : State)

@[simp] theorem State.emit_life (ev : Event) : (s.emit ev).life = s.life := rfl
@[simp] theorem State.emit_refused (ev : Event) : (s.emit ev).refused = s.refused := rfl
@[simp] theorem State.emit_faults (ev : Event) : (s.emit ev).faults = s.faults := rfl
@[simp] theorem State.emit_lastStatus (ev : Event) : (s.emit ev).lastStatus = s.lastStatus := rfl
@[simp] theorem State.emit_trace (ev : Event) : (s.emit ev).trace = s.trace ++ [ev] := rfl
@[simp] theorem State.emit_cfg (ev : Event) : (s.emit ev).cfg = s.cfg := rfl
@[simp] theorem State.emit_env (ev : Event) : (s.emit ev).env = s.env := rfl
@[simp] theorem State.emit_program (ev : Event) : (s.emit ev).program = s.program := rfl
@[simp] theorem State.emit_pc (ev : Event) : (s.emit ev).pc = s.pc := rfl

@[simp] theorem State.observe_life (b : Byte) : (s.observe b).life = s.life := rfl
@[simp] theorem State.observe_refused (b : Byte) : (s.observe b).refused = s.refused := rfl
@[simp] theorem State.observe_faults (b : Byte) : (s.observe b).faults = s.faults := rfl
@[simp] theorem State.observe_lastStatus (b : Byte) : (s.observe b).lastStatus = some b := rfl
@[simp] theorem State.observe_trace (b : Byte) : (s.observe b).trace = s.trace ++ [.statusObserved b] := rfl
@[simp] theorem State.observe_cfg (b : Byte) : (s.observe b).cfg = s.cfg := rfl
@[simp] theorem State.observe_env (b : Byte) : (s.observe b).env = s.env := rfl
@[simp] theorem State.observe_program (b : Byte) : (s.observe b).program = s.program := rfl
@[simp] theorem State.observe_pc (b : Byte) : (s.observe b).pc = s.pc := rfl

@[simp] theorem State.xferred_life (tx : Bytes) : (s.xferred tx).life = s.life := rfl
@[simp] theorem State.xferred_refused (tx : Bytes) : (s.xferred tx).refused = s.refused := rfl
@[simp] theorem State.xferred_faults (tx : Bytes) : (s.xferred tx).faults = s.faults := rfl
@[simp] theorem State.xferred_lastStatus (tx : Bytes) : (s.xferred tx).lastStatus = s.lastStatus := rfl
@[simp] theorem State.xferred_trace (tx : Bytes) : (s.xferred tx).trace = s.trace ++ [.xfer tx (s.reply tx)] := rfl
@[simp] theorem State.xferred_cfg (tx : Bytes) : (s.xferred tx).cfg = s.cfg := rfl
@[simp] theorem State.xferred_env (tx : Bytes) : (s.xferred tx).env = (s.env.answerSpi s.trace tx).2 := rfl
@[simp] theorem State.xferred_program (tx : Bytes) : (s.xferred tx).program = s.program := rfl
@[simp] theorem State.xferred_pc (tx : Bytes) : (s.xferred tx).pc = s.pc := rfl

@[simp] theorem State.waited_life (t : Timeout) : (s.waited t).life = s.life := rfl
@[simp] theorem State.waited_refused (t : Timeout) : (s.waited t).refused = s.refused := rfl
@[simp] theorem State.waited_faults (t : Timeout) : (s.waited t).faults = s.faults := rfl
@[simp] theorem State.waited_lastStatus (t : Timeout) : (s.waited t).lastStatus = s.lastStatus := rfl
@[simp] theorem State.waited_trace (t : Timeout) : (s.waited t).trace = s.trace ++ [.gpioWait t (s.edge t)] := rfl
@[simp] theorem State.waited_cfg (t : Timeout) : (s.waited t).cfg = s.cfg := rfl
@[simp] theorem State.waited_env (t : Timeout) : (s.waited t).env = (s.env.answerGpio s.trace t).2 := rfl
@[simp] theorem State.waited_program (t : Timeout) : (s.waited t).program = s.program := rfl
@[simp] theorem State.waited_pc (t : Timeout) : (s.waited t).pc = s.pc := rfl

@[simp] theorem State.takeError_life (e : ErrorRecord) : (s.takeError e).life = lifeAfterError s.life e := rfl
@[simp] theorem State.takeError_refused (e : ErrorRecord) : (s.takeError e).refused = s.refused := rfl
@[simp] theorem State.takeError_faults (e : ErrorRecord) : (s.takeError e).faults = s.faults ++ [e] := rfl
@[simp] theorem State.takeError_lastStatus (e : ErrorRecord) : (s.takeError e).lastStatus = s.lastStatus := rfl
@[simp] theorem State.takeError_trace (e : ErrorRecord) : (s.takeError e).trace = s.trace ++ [.errorRaised e, .opEnd (.err e)] := rfl
@[simp] theorem State.takeError_cfg (e : ErrorRecord) : (s.takeError e).cfg = s.cfg := rfl
@[simp] theorem State.takeError_env (e : ErrorRecord) : (s.takeError e).env = s.env := rfl
@[simp] theorem State.takeError_program (e : ErrorRecord) : (s.takeError e).program = s.program := rfl
@[simp] theorem State.takeError_pc (e : ErrorRecord) : (s.takeError e).pc = s.pc := rfl

@[simp] theorem State.refuse_life (r : RefuseReason) : (s.refuse r).life = s.life := rfl
@[simp] theorem State.refuse_refused (r : RefuseReason) : (s.refuse r).refused = true := rfl
@[simp] theorem State.refuse_faults (r : RefuseReason) : (s.refuse r).faults = s.faults := rfl
@[simp] theorem State.refuse_lastStatus (r : RefuseReason) : (s.refuse r).lastStatus = s.lastStatus := rfl
@[simp] theorem State.refuse_trace (r : RefuseReason) : (s.refuse r).trace = s.trace ++ [.opEnd (.refused r)] := rfl
@[simp] theorem State.refuse_cfg (r : RefuseReason) : (s.refuse r).cfg = s.cfg := rfl
@[simp] theorem State.refuse_env (r : RefuseReason) : (s.refuse r).env = s.env := rfl
@[simp] theorem State.refuse_program (r : RefuseReason) : (s.refuse r).program = s.program := rfl
@[simp] theorem State.refuse_pc (r : RefuseReason) : (s.refuse r).pc = s.pc := rfl

@[simp] theorem State.started_life (i : Instr) : (s.started i).life = s.life := rfl
@[simp] theorem State.started_refused (i : Instr) : (s.started i).refused = s.refused := rfl
@[simp] theorem State.started_faults (i : Instr) : (s.started i).faults = s.faults := rfl
@[simp] theorem State.started_lastStatus (i : Instr) : (s.started i).lastStatus = s.lastStatus := rfl
@[simp] theorem State.started_trace (i : Instr) : (s.started i).trace = s.trace ++ [.opStart (.op i)] := rfl
@[simp] theorem State.started_cfg (i : Instr) : (s.started i).cfg = s.cfg := rfl
@[simp] theorem State.started_env (i : Instr) : (s.started i).env = s.env := rfl
@[simp] theorem State.started_program (i : Instr) : (s.started i).program = s.program := rfl
@[simp] theorem State.started_pc (i : Instr) : (s.started i).pc = s.pc := rfl

@[simp] theorem State.transacted_life (tx : Bytes) : (s.transacted tx).life = s.life := rfl
@[simp] theorem State.transacted_refused (tx : Bytes) : (s.transacted tx).refused = s.refused := rfl
@[simp] theorem State.transacted_faults (tx : Bytes) : (s.transacted tx).faults = s.faults := rfl
@[simp] theorem State.transacted_lastStatus (tx : Bytes) : (s.transacted tx).lastStatus = some (byteAt (s.reply tx) 0) := rfl
@[simp] theorem State.transacted_trace (tx : Bytes) : (s.transacted tx).trace = s.trace ++ [.xfer tx (s.reply tx)] ++ [.statusObserved (byteAt (s.reply tx) 0)] := rfl
@[simp] theorem State.transacted_cfg (tx : Bytes) : (s.transacted tx).cfg = s.cfg := rfl
@[simp] theorem State.transacted_env (tx : Bytes) : (s.transacted tx).env = (s.env.answerSpi s.trace tx).2 := rfl
@[simp] theorem State.transacted_program (tx : Bytes) : (s.transacted tx).program = s.program := rfl
@[simp] theorem State.transacted_pc (tx : Bytes) : (s.transacted tx).pc = s.pc := rfl

@[simp] theorem State.reset_life : State.reset.life = .closed := rfl
@[simp] theorem State.reset_trace : State.reset.trace = [] := rfl

end Sys2Proof.Machine
end

