-- ==== Sys2Proof/Laws/Ops.lean ====
section
/-! SUPPORT. One lemma per shared operation that says once everything it does: `Runs` where it succeeds, `Raises` where it
ends with an error; how they compose; and the envelope of a host operation. -/

namespace Sys2Proof.Machine

/-! ### Interactions -/

theorem interact_append (p : EchoPolicy) : ∀ (ix iy : List Interaction) (env : Environment) (tr : List Event),
    interact p env tr (ix ++ iy) = (interact p env tr ix).bind fun r => interact p r.1 r.2 iy
  | [], _, _, _ => rfl
  | .spi tx rx :: ix, iy, env, tr => by
      simp only [List.cons_append, interact]
      split
      · exact interact_append p ix iy _ _
      · rfl
  | .gpio t r :: ix, iy, env, tr => by
      simp only [List.cons_append, interact]
      split
      · exact interact_append p ix iy _ _
      · rfl
  | .note w :: ix, iy, env, tr => by
      simp only [List.cons_append, interact]
      exact interact_append p ix iy _ _

theorem statusAfter_append : ∀ (b : Option Byte) (ix iy : List Interaction),
    statusAfter b (ix ++ iy) = statusAfter (statusAfter b ix) iy
  | _, [], _ => rfl
  | _, .spi _ _ :: ix, iy => statusAfter_append _ ix iy
  | _, .gpio _ _ :: ix, iy => statusAfter_append _ ix iy
  | _, .note _ :: ix, iy => statusAfter_append _ ix iy

/-- The state after some interactions. -/
def State.after (s : State) (ix : List Interaction) (env : Environment) (tr : List Event) : State :=
  { s with lastStatus := statusAfter s.lastStatus ix, env := env, trace := tr }

variable {α β : Type} {c : Config}

/-- Under the configuration `c`, whenever the outside world gives these answers, the body has exactly these interactions
and succeeds with `a`. -/
def Runs (c : Config) (x : Op α) (ix : List Interaction) (a : α) : Prop :=
  ∀ s : State, s.cfg = c → ∀ env tr, interact c.echoPolicy s.env s.trace ix = some (env, tr) →
    x s = .ok a (s.after ix env tr)

/-- The same for a body that ends with an error. -/
def Raises (c : Config) (x : Op α) (ix : List Interaction) (e : ErrorInfo) : Prop :=
  ∀ s : State, s.cfg = c → ∀ env tr, interact c.echoPolicy s.env s.trace ix = some (env, tr) →
    x s = .error (.err e) (s.after ix env tr)

/-! ### Composition -/

theorem Runs.pure (a : α) : Runs c (Pure.pure a : Op α) [] a := by
  intro s _ env tr h
  simp only [interact, Option.some.injEq, Prod.mk.injEq] at h
  obtain ⟨rfl, rfl⟩ := h
  rfl

theorem Raises.raise (e : ErrorInfo) : Raises c (raise e : Op α) [] e := by
  intro s _ env tr h
  simp only [interact, Option.some.injEq, Prod.mk.injEq] at h
  obtain ⟨rfl, rfl⟩ := h
  rfl

theorem Runs.bind {x : Op α} {f : α → Op β} {ix iy : List Interaction} {a : α} {b : β}
    (hx : Runs c x ix a) (hf : Runs c (f a) iy b) : Runs c (x >>= f) (ix ++ iy) b := by
  intro s hc env tr h
  rw [interact_append, Option.bind_eq_some_iff] at h
  obtain ⟨⟨env1, tr1⟩, h1, h2⟩ := h
  have e1 := hx s hc env1 tr1 h1
  have e2 := hf (s.after ix env1 tr1) hc env tr h2
  simp only [Bind.bind, EStateM.bind, e1, e2]
  simp [State.after, statusAfter_append]

theorem Raises.bind_left {x : Op α} {f : α → Op β} {ix : List Interaction} {e : ErrorInfo}
    (hx : Raises c x ix e) : Raises c (x >>= f) ix e := by
  intro s hc env tr h
  simp only [Bind.bind, EStateM.bind, hx s hc env tr h]

theorem Raises.bind_right {x : Op α} {f : α → Op β} {ix iy : List Interaction} {a : α} {e : ErrorInfo}
    (hx : Runs c x ix a) (hf : Raises c (f a) iy e) : Raises c (x >>= f) (ix ++ iy) e := by
  intro s hc env tr h
  rw [interact_append, Option.bind_eq_some_iff] at h
  obtain ⟨⟨env1, tr1⟩, h1, h2⟩ := h
  have e1 := hx s hc env1 tr1 h1
  have e2 := hf (s.after ix env1 tr1) hc env tr h2
  simp only [Bind.bind, EStateM.bind, e1, e2]
  simp [State.after, statusAfter_append]

/-! ### The shared operations -/

theorem runs_getCfg : Runs c getCfg [] c := by
  intro s hc env tr h
  simp only [interact, Option.some.injEq, Prod.mk.injEq] at h
  obtain ⟨rfl, rfl⟩ := h
  subst hc; rfl

theorem runs_require {p : Prop} [Decidable p] (hp : p) (e : ErrorInfo) : Runs c (require p e) [] () := by
  rw [require, if_pos hp]; exact Runs.pure ()

theorem raises_require {p : Prop} [Decidable p] (hp : ¬p) (e : ErrorInfo) : Raises c (require p e) [] e := by
  rw [require, if_neg hp]; exact Raises.raise e

theorem runs_warn (w : Warning) : Runs c (warn w) [.note w] () := by
  intro s _ env tr h
  simp only [interact, Interaction.events, Option.some.injEq, Prod.mk.injEq] at h
  obtain ⟨rfl, rfl⟩ := h
  rfl

theorem runs_gpioWaitRising (t : Timeout) (r : Bool) : Runs c (gpioWaitRising t) [.gpio t r] r := by
  intro s _ env tr h
  simp only [interact, Interaction.events] at h
  split at h
  · rename_i hr
    simp only [Option.some.injEq, Prod.mk.injEq] at h
    obtain ⟨rfl, rfl⟩ := h
    subst hr
    rfl
  · simp at h

/-- A transfer of a frame that is no burst write. -/
theorem runs_transact {tx : Bytes} (rx : Bytes) {n : Nat} (hl : legalFrame tx = true) (hn : n = tx.length)
    (hw : headerMode (byteAt tx 0) ≠ .writeBurst) : Runs c (transact tx n) [.spi tx rx] rx := by
  intro s _ env tr h
  simp only [interact] at h
  split at h
  · rename_i hr
    simp only [Interaction.events, echoWarnings, hw, and_false, if_false, List.append_nil, Option.some.injEq,
      Prod.mk.injEq] at h
    obtain ⟨rfl, rfl⟩ := h
    obtain ⟨hrx, hlen, -⟩ := hr
    have hrep : s.reply tx = rx := hrx
    simp only [transact, hl, if_true, hrep, hlen, hn]
    simp [State.after, State.transacted, State.xferred, State.observe, statusAfter, hrep]
  · simp at h

theorem runs_readSingle {a : Addr6} (st b : Byte) (ha : a.toNat ≤ 0x2E) :
    Runs c (readSingle a) [.spi (frameReadSingle a) [st, b]] b :=
  (runs_transact [st, b] (by rw [legalFrame_readSingle]; exact decide_eq_true ha) rfl
    (by simp [byteAt, frameReadSingle])).bind (Runs.pure b)

theorem runs_readBurst {a : Addr6} {n : Nat} (st : Byte) (v : Bytes) (hl : legalForm ⟨.readBurst, a, n⟩ = true) :
    Runs c (readBurst a n) [.spi (frameReadBurst a n) (st :: v)] v :=
  (runs_transact (st :: v) (by rw [legalFrame_readBurst]; exact hl) (by simp)
    (by simp [byteAt, frameReadBurst])).bind (Runs.pure v)

theorem runs_readStatusAt {a : Addr6} (st b : Byte) (hl : legalForm ⟨.readBurst, a, 1⟩ = true) :
    Runs c (readStatusAt a) [.spi (frameReadStatus a) [st, b]] b :=
  (runs_transact [st, b] (by rw [legalFrame_readStatus]; exact hl) rfl
    (by simp [byteAt, frameReadStatus])).bind (Runs.pure b)

theorem runs_strobeAt {a : Addr6} (st : Byte) (ha : 0x30 ≤ a.toNat ∧ a.toNat ≤ 0x3D ∧ a.toNat ≠ 0x37) :
    Runs c (strobeAt a) [.spi (frameStrobe a) [st]] () :=
  (runs_transact [st] (by rw [legalFrame_strobe]; exact decide_eq_true ha) rfl
    (by simp [byteAt, frameStrobe])).bind (Runs.pure ())

/-- The warnings of the echo bytes from index `i` on. -/
def warningsFrom (h lead : Byte) : Nat → Bytes → List Event
  | _, [] => []
  | i, b :: bs => (if b = lead then [] else [.warning (.echoMismatch h i lead b)]) ++ warningsFrom h lead (i + 1) bs

/-- Under ADVISORY the echo check logs its warnings and ends well (40_bus_codec.md R121). -/
theorem echoCheckFrom_advisory (h lead : Byte) : ∀ (bs : Bytes) (i : Nat) (s : State),
    echoCheckFrom .advisory h lead i bs s = .ok () { s with trace := s.trace ++ warningsFrom h lead i bs }
  | [], i, s => by simp [echoCheckFrom, warningsFrom, Pure.pure, EStateM.pure]
  | b :: bs, i, s => by
      by_cases hb : b = lead
      · simp only [echoCheckFrom, hb, if_true, warningsFrom, List.nil_append]
        exact echoCheckFrom_advisory h lead bs (i + 1) s
      · simp only [echoCheckFrom, hb, if_false, warningsFrom]
        simp only [Bind.bind, EStateM.bind, warn]
        rw [echoCheckFrom_advisory h lead bs (i + 1)]
        simp

/-- Under MATCH_STATUS, equal echo bytes pass (40_bus_codec.md R121). -/
theorem echoCheckFrom_matchStatus (h lead : Byte) : ∀ (bs : Bytes) (i : Nat) (s : State), (∀ b ∈ bs, b = lead) →
    echoCheckFrom .matchStatus h lead i bs s = .ok () s
  | [], i, s, _ => rfl
  | b :: bs, i, s, hb => by
      simp only [echoCheckFrom, if_pos (hb b (by simp))]
      exact echoCheckFrom_matchStatus h lead bs (i + 1) s fun x hx => hb x (by simp [hx])

/-- Under MATCH_0F, echo bytes 0x0F pass (40_bus_codec.md R121). -/
theorem echoCheckFrom_match0F (h lead : Byte) : ∀ (bs : Bytes) (i : Nat) (s : State), (∀ b ∈ bs, b = 0x0F) →
    echoCheckFrom .match0F h lead i bs s = .ok () s
  | [], i, s, _ => rfl
  | b :: bs, i, s, hb => by
      simp only [echoCheckFrom, if_pos (hb b (by simp))]
      exact echoCheckFrom_match0F h lead bs (i + 1) s fun x hx => hb x (by simp [hx])

/-- The warnings counted from one are those `echoWarnings` lists. -/
theorem warningsFrom_eq (h lead : Byte) : ∀ (bs : Bytes) (i : Nat),
    warningsFrom h lead i bs =
      ((List.range bs.length).filter fun k => decide (bs.getD k 0 ≠ lead)).map
        fun k => .warning (.echoMismatch h (i + k) lead (bs.getD k 0))
  | [], i => rfl
  | b :: bs, i => by
      rw [warningsFrom, warningsFrom_eq h lead bs (i + 1), List.length_cons, List.range_succ_eq_map,
        List.filter_cons, List.filter_map]
      by_cases hb : b = lead
      · simp [hb, Function.comp_def, Nat.add_assoc, Nat.add_comm 1]
      · simp [hb, Function.comp_def, Nat.add_assoc, Nat.add_comm 1]

/-- A burst write whose echo the policy accepts. -/
theorem runs_writeBurst {a : Addr6} {v : Bytes} (rx : Bytes) (hl : legalForm ⟨.writeBurst, a, v.length⟩ = true) :
    Runs c (writeBurst a v) [.spi (frameWriteBurst a v) rx] () := by
  intro s hc env tr h
  simp only [interact] at h
  split at h
  · rename_i hr
    obtain ⟨hrx, hlen, hecho⟩ := hr
    simp only [Option.some.injEq, Prod.mk.injEq] at h
    obtain ⟨rfl, rfl⟩ := h
    have hrep : s.reply (frameWriteBurst a v) = rx := hrx
    have hlf : legalFrame (frameWriteBurst a v) = true := by rw [legalFrame_writeBurst]; exact hl
    have hm : headerMode (byteAt (frameWriteBurst a v) 0) = .writeBurst := by simp [byteAt, frameWriteBurst]
    obtain ⟨lead, bs, rfl⟩ : ∃ lead bs, rx = lead :: bs := by
      cases rx with
      | nil => simp at hlen
      | cons x xs => exact ⟨x, xs, rfl⟩
    have e1 : transact (frameWriteBurst a v) (v.length + 1) s =
        .ok (lead :: bs) (s.transacted (frameWriteBurst a v)) := by
      simp only [transact, hlf, if_true, hrep]
      rw [if_pos (by simpa using hlen)]
    simp only [writeBurst, Bind.bind, EStateM.bind, e1, echoCheck, getCfg]
    have hcfg : (s.transacted (frameWriteBurst a v)).cfg.echoPolicy = c.echoPolicy := by rw [← hc]; rfl
    rw [hcfg]
    have hb0 : byteAt (lead :: bs) 0 = lead := rfl
    rw [hb0]
    generalize hp : c.echoPolicy = p at *
    cases p with
    | advisory =>
        simp only [List.drop_succ_cons, List.drop_zero, echoCheckFrom_advisory, warningsFrom_eq]
        simp only [Interaction.events, echoWarnings, hm, and_self, if_true]
        simp [State.after, State.transacted, State.xferred, State.observe, statusAfter, hrep, byteAt,
          Nat.add_comm 1, List.append_assoc]
    | matchStatus =>
        simp only [echoPasses, hm, forall_const, decide_eq_true_eq] at hecho
        rw [hb0] at hecho
        rw [echoCheckFrom_matchStatus _ _ _ _ _ hecho]
        simp [State.after, State.transacted, State.xferred, State.observe, statusAfter, hrep, byteAt,
          Interaction.events, echoWarnings]
    | match0F =>
        simp only [echoPasses, hm, forall_const, decide_eq_true_eq] at hecho
        rw [echoCheckFrom_match0F _ _ _ _ _ hecho]
        simp [State.after, State.transacted, State.xferred, State.observe, statusAfter, hrep, byteAt,
          Interaction.events, echoWarnings]
  · simp at h

/-- A read-modify-write (41_register_fields.md R182). -/
theorem runs_readModifyWrite {a : Addr6} (f : Byte → Byte) (st b : Byte) (rx : Bytes) (ha : a.toNat ≤ 0x2E) :
    Runs c (readModifyWrite a f) [.spi (frameReadSingle a) [st, b], .spi (frameWriteBurst a [f b]) rx] () :=
  (runs_readSingle st b ha).bind
    (runs_writeBurst rx (by simp only [legalForm, List.length_singleton, Bool.or_eq_true, decide_eq_true_eq]; left; left; omega))

theorem runs_fieldGet (f : Field) (st b : Byte) (ha : f.reg.toNat ≤ 0x2E) :
    Runs c (fieldGet f) [.spi (frameReadSingle f.reg) [st, b]] (fieldOf b f) :=
  (runs_readSingle st b ha).bind (Runs.pure _)

theorem runs_fieldSet (f : Field) (v : Nat) (st b : Byte) (rx : Bytes) (ha : f.reg.toNat ≤ 0x2E) :
    Runs c (fieldSet f v)
      [.spi (frameReadSingle f.reg) [st, b], .spi (frameWriteBurst f.reg [merge b f v]) rx] () :=
  runs_readModifyWrite _ st b rx ha

/-! ### The envelope -/

/-- A host operation whose body succeeds completes. -/
theorem Runs.completes {i : Instr} {s : State} {x : Op Value} {ix : List Interaction} {v : Value}
    (he : exec i s = runOp i x s) (ha : accepts s.life i = true) (hx : Runs s.cfg x ix v) :
    Completes i s ix v s.life := by
  intro env tr h
  have := hx (s.started i) rfl env tr h
  rw [he, runOp, if_pos ha, this]
  rfl

/-- A host operation whose body raises fails. -/
theorem Raises.fails {i : Instr} {s : State} {x : Op Value} {ix : List Interaction} {e : ErrorInfo}
    (he : exec i s = runOp i x s) (ha : accepts s.life i = true) (hx : Raises s.cfg x ix e) :
    Fails i s ix e (lifeAfterError s.life ⟨i, e⟩) := by
  intro env tr h
  have := hx (s.started i) rfl env tr h
  rw [he, runOp, if_pos ha, this]
  rfl

/-- An operation the lifecycle state does not accept is refused. -/
theorem refuses_wrongState {i : Instr} {s : State} {x : Op Value} (he : exec i s = runOp i x s)
    (ha : accepts s.life i = false) : Refuses i s (.wrongState (.op i) s.life) := by
  rw [Refuses, he, runOp, if_neg (by simp [ha])]
  simp [State.refuse, State.started, State.emit]

end Sys2Proof.Machine
end

