-- ==== Sys2Proof/Laws/Path.lean ====
section
/-! SUPPORT. Said once for every operation: whatever its body does is a list of allowed interactions, after which it
succeeds, raises or is refused; every body has that form (`body_follows`). -/

namespace Sys2Proof.Machine

/-- The error of a response of a wrong length (40_bus_codec.md R120). -/
def lengthError (tx rx : Bytes) : ErrorInfo :=
  { kind := .length, header := tx.head?, expected := some (.int tx.length), actual := some (.int rx.length) }

/-- The error of an echo byte (40_bus_codec.md R121). -/
def echoError (h : Byte) (i : Nat) (want got : Byte) : ErrorInfo :=
  { kind := .echo, header := some h, index := some i, expected := some (.byte want), actual := some (.byte got) }

/-- The byte an echo byte must equal under a policy, if any (40_bus_codec.md R121). -/
def echoWant (p : EchoPolicy) (st : Byte) : Option Byte :=
  match p with
  | .advisory => none
  | .matchStatus => some st
  | .match0F => some 0x0F

/-- How an operation that raises `e` ends: at a check, at a response of a wrong length, or at an echo byte. `P` says
which transfers it may make. -/
inductive Stops (P : Interaction → Prop) (e : ErrorInfo) : State → State → Prop
  | check (s : State) (h1 : e.kind ≠ .length) (h2 : e.kind ≠ .echo) : Stops P e s s
  | length (s : State) (tx : Bytes) (hl : legalFrame tx = true) (hp : P (.spi tx (s.reply tx)))
      (hn : (s.reply tx).length ≠ tx.length) (he : e = lengthError tx (s.reply tx)) : Stops P e s (s.xferred tx)
  | echo (s : State) (tx : Bytes) (k : Nat) (want : Byte) (hl : legalFrame tx = true) (hp : P (.spi tx (s.reply tx)))
      (hm : headerMode (byteAt tx 0) = .writeBurst) (hn : (s.reply tx).length = tx.length)
      (hw : echoWant s.cfg.echoPolicy (byteAt (s.reply tx) 0) = some want)
      (hk : k + 1 < tx.length) (hj : ∀ j < k, byteAt (s.reply tx) (j + 1) = want)
      (hb : byteAt (s.reply tx) (k + 1) ≠ want)
      (he : e = echoError (byteAt tx 0) (k + 1) want (byteAt (s.reply tx) (k + 1))) : Stops P e s (s.transacted tx)

/-- `t` is the state after allowed interactions from `s`. -/
def Path (P : Interaction → Prop) (s t : State) : Prop :=
  ∃ ix env tr, interact s.cfg.echoPolicy s.env s.trace ix = some (env, tr) ∧ (∀ x ∈ ix, P x) ∧
    (∀ tx rx, Interaction.spi tx rx ∈ ix → legalFrame tx = true) ∧ t = s.after ix env tr

/-- The ends of a body, by its result. -/
def Ends {α : Type} (P : Interaction → Prop) (s : State) : EStateM.Result Abort State α → Prop
  | .ok _ t => Path P s t
  | .error (.err e) t => ∃ s', Path P s s' ∧ Stops P e s' t
  | .error (.refuse r) t => Path P s t ∧ ∃ h n, r = .illegalForm h n

/-- From every state the body ends in one of these ways. -/
def Follows {α : Type} (P : Interaction → Prop) (x : Op α) : Prop := ∀ s, Ends P s (x s)

variable {α β : Type} {P : Interaction → Prop}

theorem Path.refl (s : State) : Path P s s :=
  ⟨[], s.env, s.trace, rfl, by simp, by simp, rfl⟩

theorem Path.cfg {s t : State} (h : Path P s t) : t.cfg = s.cfg := by
  obtain ⟨ix, env, tr, -, -, -, rfl⟩ := h; rfl

theorem Path.trans {s t u : State} (h1 : Path P s t) (h2 : Path P t u) : Path P s u := by
  obtain ⟨ix, env, tr, hi, hp, hl, rfl⟩ := h1
  obtain ⟨iy, env', tr', hi', hp', hl', rfl⟩ := h2
  refine ⟨ix ++ iy, env', tr', ?_, ?_, ?_, ?_⟩
  · rw [interact_append, hi]; exact hi'
  · intro x hx
    rcases List.mem_append.1 hx with h | h
    · exact hp x h
    · exact hp' x h
  · intro tx rx hx
    rcases List.mem_append.1 hx with h | h
    · exact hl tx rx h
    · exact hl' tx rx h
  · simp [State.after, statusAfter_append]

theorem Follows.pure (a : α) : Follows P (Pure.pure a : Op α) := fun s => Path.refl s

theorem Follows.raise {e : ErrorInfo} (h1 : e.kind ≠ .length) (h2 : e.kind ≠ .echo) : Follows P (raise e : Op α) :=
  fun s => ⟨s, Path.refl s, .check s h1 h2⟩

theorem Follows.bind {x : Op α} {f : α → Op β} (hx : Follows P x) (hf : ∀ a, Follows P (f a)) :
    Follows P (x >>= f) := by
  intro s
  have h1 := hx s
  simp only [Bind.bind, EStateM.bind]
  cases hr : x s with
  | ok a t =>
      rw [hr] at h1
      have h2 := hf a t
      simp only
      cases hr2 : f a t with
      | ok b u => rw [hr2] at h2; exact Path.trans h1 h2
      | error e u =>
          rw [hr2] at h2
          cases e with
          | err e => obtain ⟨s', hp, hs⟩ := h2; exact ⟨s', Path.trans h1 hp, hs⟩
          | refuse r => exact ⟨Path.trans h1 h2.1, h2.2⟩
  | error e t =>
      rw [hr] at h1
      cases e <;> exact h1

theorem follows_getCfg : Follows P getCfg := fun s => Path.refl s

theorem follows_getLife : Follows P getLife := fun s => Path.refl s

theorem follows_require {p : Prop} [Decidable p] {e : ErrorInfo} (h1 : e.kind ≠ .length) (h2 : e.kind ≠ .echo) :
    Follows P (require p e) := by
  unfold require
  split
  · exact Follows.pure ()
  · exact Follows.raise h1 h2

theorem follows_warn {w : Warning} (hp : P (.note w)) : Follows P (warn w) := fun s =>
  ⟨[.note w], s.env, s.trace ++ [.warning w], rfl, by simpa using hp, by simp, rfl⟩

theorem follows_gpioWaitRising {t : Timeout} (hp : ∀ r, P (.gpio t r)) : Follows P (gpioWaitRising t) := fun s =>
  ⟨[.gpio t (s.edge t)], (s.env.answerGpio s.trace t).2, s.trace ++ [.gpioWait t (s.edge t)],
    by simp [interact, State.edge, Interaction.events], by simpa using hp _, by simp, rfl⟩

/-- A transfer of a frame that is no burst write. -/
theorem follows_transact {tx : Bytes} {n : Nat} (hn : n = tx.length) (hm : headerMode (byteAt tx 0) ≠ .writeBurst)
    (hp : legalFrame tx = true → ∀ rx, P (.spi tx rx)) : Follows P (transact tx n) := by
  intro s
  subst hn
  unfold transact
  by_cases hl : legalFrame tx = true
  · rw [if_pos hl]
    by_cases hlen : (s.reply tx).length = tx.length
    · rw [if_pos hlen]
      refine ⟨[.spi tx (s.reply tx)], (s.env.answerSpi s.trace tx).2,
        s.trace ++ [.xfer tx (s.reply tx), .statusObserved (byteAt (s.reply tx) 0)], ?_, by simpa using hp hl _, ?_, ?_⟩
      · simp only [interact]
        rw [if_pos ⟨rfl, hlen, by cases s.cfg.echoPolicy <;> simp [echoPasses, hm]⟩]
        simp [Interaction.events, echoWarnings, hm]
      · intro tx' rx hx
        simp only [List.mem_singleton, Interaction.spi.injEq] at hx
        rw [hx.1]; exact hl
      · simp [State.after, State.transacted, State.xferred, State.observe, statusAfter]
    · rw [if_neg hlen]
      exact ⟨s, Path.refl s, .length s tx hl (hp hl _) hlen rfl⟩
  · rw [if_neg hl]
    exact ⟨Path.refl s, _, _, rfl⟩

theorem follows_readSingle {a : Addr6} (hp : ∀ rx, P (.spi (frameReadSingle a) rx)) : Follows P (readSingle a) :=
  (follows_transact rfl (by simp [byteAt, frameReadSingle]) fun _ => hp).bind fun _ => Follows.pure _

theorem follows_readBurst {a : Addr6} {n : Nat} (hp : ∀ rx, P (.spi (frameReadBurst a n) rx)) :
    Follows P (readBurst a n) :=
  (follows_transact (by simp) (by simp [byteAt, frameReadBurst]) fun _ => hp).bind fun _ => Follows.pure _

theorem follows_readStatusAt {a : Addr6} (hp : ∀ rx, P (.spi (frameReadStatus a) rx)) : Follows P (readStatusAt a) :=
  (follows_transact rfl (by simp [byteAt, frameReadStatus]) fun _ => hp).bind fun _ => Follows.pure _

theorem follows_strobeAt {a : Addr6} (hp : ∀ rx, P (.spi (frameStrobe a) rx)) : Follows P (strobeAt a) :=
  (follows_transact rfl (by simp [byteAt, frameStrobe]) fun _ => hp).bind fun _ => Follows.pure _

/-- Under a checking policy the echo check ends well if every byte is the wanted one, and else at the first other one
(40_bus_codec.md R121). -/
theorem echoCheckFrom_want {p : EchoPolicy} {h lead want : Byte} (hw : echoWant p lead = some want) :
    ∀ (bs : Bytes) (i : Nat) (s : State),
      ((∀ b ∈ bs, b = want) ∧ echoCheckFrom p h lead i bs s = .ok () s) ∨
      ∃ k, k < bs.length ∧ (∀ j < k, bs.getD j 0 = want) ∧ bs.getD k 0 ≠ want ∧
        echoCheckFrom p h lead i bs s = .error (.err (echoError h (i + k) want (bs.getD k 0))) s
  | [], _, _ => .inl ⟨by simp, rfl⟩
  | b :: bs, i, s => by
      have step : echoCheckFrom p h lead i (b :: bs) s =
          if b = want then echoCheckFrom p h lead (i + 1) bs s
          else .error (.err (echoError h i want b)) s := by
        cases p with
        | advisory => simp [echoWant] at hw
        | matchStatus =>
            simp only [echoWant, Option.some.injEq] at hw; subst hw
            simp only [echoCheckFrom]; split <;> rfl
        | match0F =>
            simp only [echoWant, Option.some.injEq] at hw; subst hw
            simp only [echoCheckFrom]; split <;> rfl
      by_cases hb : b = want
      · rw [step, if_pos hb]
        rcases echoCheckFrom_want hw bs (i + 1) s with ⟨hall, he⟩ | ⟨k, hk, hj, hne, he⟩
        · exact .inl ⟨by simpa [hb] using hall, he⟩
        · refine .inr ⟨k + 1, by simpa using hk, ?_, by simpa using hne, ?_⟩
          · intro j hjk
            cases j with
            | zero => simpa using hb
            | succ j => simpa using hj j (by omega)
          · rw [he]; simp [Nat.add_assoc, Nat.add_comm 1]
      · rw [step, if_neg hb]
        exact .inr ⟨0, by simp, by simp, by simpa using hb, by simp⟩

theorem follows_writeBurst {a : Addr6} {v : Bytes} (hp : ∀ rx, P (.spi (frameWriteBurst a v) rx)) :
    Follows P (writeBurst a v) := by
  intro s
  have hm : headerMode (byteAt (frameWriteBurst a v) 0) = .writeBurst := by simp [byteAt, frameWriteBurst]
  by_cases hl : legalForm ⟨.writeBurst, a, v.length⟩ = true
  · have hlf : legalFrame (frameWriteBurst a v) = true := by rw [legalFrame_writeBurst]; exact hl
    by_cases hlen : (s.reply (frameWriteBurst a v)).length = v.length + 1
    · by_cases hpass : echoPasses s.cfg.echoPolicy (frameWriteBurst a v) (s.reply (frameWriteBurst a v)) = true
      · have hi : interact s.cfg.echoPolicy s.env s.trace [.spi (frameWriteBurst a v) (s.reply (frameWriteBurst a v))] =
            some ((s.env.answerSpi s.trace (frameWriteBurst a v)).2, s.trace ++
              Interaction.events s.cfg.echoPolicy
                (.spi (frameWriteBurst a v) (s.reply (frameWriteBurst a v)))) := by
          simp only [interact]
          rw [if_pos ⟨rfl, by simpa using hlen, hpass⟩]
        have := runs_writeBurst (c := s.cfg) _ hl s rfl _ _ hi
        rw [this]
        refine ⟨_, _, _, hi, by simpa using hp _, ?_, rfl⟩
        intro tx' rx hx
        simp only [List.mem_singleton, Interaction.spi.injEq] at hx
        rw [hx.1]; exact hlf
      · obtain ⟨want, hw⟩ : ∃ want, echoWant s.cfg.echoPolicy (byteAt (s.reply (frameWriteBurst a v)) 0) = some want := by
          cases hq : s.cfg.echoPolicy with
          | advisory => simp [hq, echoPasses] at hpass
          | matchStatus => exact ⟨_, rfl⟩
          | match0F => exact ⟨_, rfl⟩
        have e1 : transact (frameWriteBurst a v) (v.length + 1) s =
            .ok (s.reply (frameWriteBurst a v)) (s.transacted (frameWriteBurst a v)) := by
          simp only [transact, hlf, if_true, hlen]
        simp only [writeBurst, Bind.bind, EStateM.bind, e1, echoCheck, getCfg, State.transacted_cfg]
        rcases echoCheckFrom_want (h := byteAt (frameWriteBurst a v) 0) hw ((s.reply (frameWriteBurst a v)).drop 1) 1
          (s.transacted (frameWriteBurst a v)) with ⟨hall, -⟩ | ⟨k, hk, hj, hne, he⟩
        · exfalso
          apply hpass
          cases hq : s.cfg.echoPolicy with
          | advisory => rfl
          | matchStatus =>
              rw [hq] at hw; simp only [echoWant, Option.some.injEq] at hw
              simp only [echoPasses, hm, forall_const, decide_eq_true_eq]
              rw [hw]; exact hall
          | match0F =>
              rw [hq] at hw; simp only [echoWant, Option.some.injEq] at hw
              simp only [echoPasses, hm, forall_const, decide_eq_true_eq]
              rw [hw]; exact hall
        · rw [he]
          have hd : ∀ j, ((s.reply (frameWriteBurst a v)).drop 1).getD j 0 = byteAt (s.reply (frameWriteBurst a v)) (j + 1) := by
            intro j; simp [byteAt, List.getD_eq_getElem?_getD]
          refine ⟨s, Path.refl s, .echo s _ k want hlf (hp _) hm (by simpa using hlen) hw ?_ ?_ ?_ ?_⟩
          · simp only [List.length_drop, hlen] at hk; simpa using hk
          · intro j hjk; rw [← hd]; exact hj j hjk
          · rw [← hd]; exact hne
          · rw [hd, Nat.add_comm]
    · have e1 : writeBurst a v s = .error (.err (lengthError (frameWriteBurst a v) (s.reply (frameWriteBurst a v))))
          (s.xferred (frameWriteBurst a v)) := by
        simp only [writeBurst, Bind.bind, EStateM.bind, transact, hlf, if_true, hlen, if_false]
        simp [lengthError, frameWriteBurst]
      rw [e1]
      exact ⟨s, Path.refl s, .length s _ hlf (hp _) (by simpa using hlen) rfl⟩
  · have hlf : ¬legalFrame (frameWriteBurst a v) = true := by rw [legalFrame_writeBurst]; exact hl
    simp only [writeBurst, Bind.bind, EStateM.bind, transact, hlf]
    exact ⟨Path.refl s, _, _, rfl⟩

/-! ### Bodies -/

/-- What an operation may do to the outside world beside transfers: the wait of `Receive`, the warning of
`SetBaseFrequencyHz`. -/
def allowedBy (i : Instr) : Interaction → Prop
  | .spi _ _ => True
  | .gpio t _ => i = .receive t
  | .note w => ∃ hz, i = .setBaseFrequencyHz hz ∧ w = .frequencyBelowTxFloor hz

theorem follows_fieldGet {f : Field} (hp : ∀ tx rx, P (.spi tx rx)) : Follows P (fieldGet f) :=
  (follows_readSingle (hp _)).bind fun _ => Follows.pure _

theorem follows_readModifyWrite {a : Addr6} {f : Byte → Byte} (hp : ∀ tx rx, P (.spi tx rx)) :
    Follows P (readModifyWrite a f) :=
  (follows_readSingle (hp _)).bind fun _ => follows_writeBurst (hp _)

theorem follows_fieldSet {f : Field} {v : Nat} (hp : ∀ tx rx, P (.spi tx rx)) : Follows P (fieldSet f v) :=
  follows_readModifyWrite hp

theorem follows_readStatus {r : StatusReg} (hp : ∀ tx rx, P (.spi tx rx)) : Follows P (readStatus r) :=
  follows_readStatusAt (hp _)

theorem follows_strobe {c : StrobeCmd} (hp : ∀ tx rx, P (.spi tx rx)) : Follows P (strobe c) :=
  follows_strobeAt (hp _)

theorem follows_requireIdle {k : ErrorKind} (h1 : k ≠ .length) (h2 : k ≠ .echo) (hp : ∀ tx rx, P (.spi tx rx)) :
    Follows P (requireIdle k) :=
  (follows_readStatus hp).bind fun _ => follows_require h1 h2

theorem follows_asyncEndSequence (hp : ∀ tx rx, P (.spi tx rx)) : Follows P asyncEndSequence :=
  (follows_strobe hp).bind fun _ => follows_fieldSet hp

theorem follows_setPAIndex {i : Int} (hp : ∀ tx rx, P (.spi tx rx)) : Follows P (setPAIndex i) :=
  (follows_require (by simp [configError]) (by simp [configError])).bind fun _ => follows_fieldSet hp

theorem follows_setCalibrationOnWake {v : Int} (hp : ∀ tx rx, P (.spi tx rx)) : Follows P (setCalibrationOnWake v) :=
  (follows_require (by simp [configError]) (by simp [configError])).bind fun _ => follows_fieldSet hp

theorem follows_setSymbolRateFP {m e : Int} (hp : ∀ tx rx, P (.spi tx rx)) : Follows P (setSymbolRateFP m e) :=
  (follows_require (by simp [configError]) (by simp [configError])).bind fun _ =>
    (follows_require (by simp [configError]) (by simp [configError])).bind fun _ =>
      (follows_readSingle (hp _)).bind fun _ => follows_writeBurst (hp _)

theorem follows_openCore (hp : ∀ tx rx, P (.spi tx rx)) :
    Follows P (do strobe .sres; verifyIdentity; configureDefaults; requireIdle .notIdleAfterConfig) := by
  refine (follows_strobe hp).bind fun _ => ?_
  refine Follows.bind ?_ fun _ => ?_
  · exact follows_getCfg.bind fun _ => (follows_readStatus hp).bind fun _ =>
      (follows_require (by simp) (by simp)).bind fun _ => (follows_readStatus hp).bind fun _ =>
        follows_require (by simp) (by simp)
  refine Follows.bind ?_ fun _ => ?_
  · exact (follows_fieldSet hp).bind fun _ => (follows_setPAIndex hp).bind fun _ =>
      (follows_fieldSet hp).bind fun _ => follows_setCalibrationOnWake hp
  exact follows_requireIdle (by simp) (by simp) hp

theorem follows_transmit {payload : Bytes} (hp : ∀ tx rx, P (.spi tx rx)) : Follows P (transmit payload) := by
  refine (follows_require (by simp [configError]) (by simp [configError])).bind fun _ => ?_
  refine ((follows_fieldGet hp).bind fun _ => Follows.pure _).bind fun mode => ?_
  refine (follows_readSingle (hp _)).bind fun max => ?_
  refine Follows.bind ?_ fun _ => ?_
  · cases h : txFrame mode max payload with
    | ok a => exact Follows.pure a
    | error e =>
        have : e.kind ≠ .length ∧ e.kind ≠ .echo := by
          unfold txFrame at h
          split at h <;> (try split at h) <;> simp only [Except.error.injEq, reduceCtorEq] at h <;>
            subst h <;> simp [payloadError, configError]
        exact Follows.raise this.1 this.2
  refine (follows_requireIdle (by simp) (by simp) hp).bind fun _ => ?_
  refine (follows_strobe hp).bind fun _ => ?_
  exact (follows_writeBurst (hp _)).bind fun _ => follows_strobe hp

theorem follows_receive {t : Timeout} (hp : ∀ tx rx, P (.spi tx rx)) (hg : ∀ r, P (.gpio t r)) :
    Follows P (receive t) := by
  refine (follows_strobe hp).bind fun _ => (follows_gpioWaitRising hg).bind fun edge => ?_
  split
  · refine ((follows_readStatus hp).bind fun _ => Follows.pure _).bind fun n => ?_
    split
    · exact Follows.pure _
    · split
      · exact Follows.raise (by simp) (by simp)
      · exact (follows_readBurst (hp _)).bind fun _ => Follows.pure _
  · exact (follows_strobe hp).bind fun _ => Follows.pure _

/-- The lifecycle state an operation's success leaves (10_state.md R25). -/
def endLife (i : Instr) (l : Life) : Life :=
  match i with
  | .openOp => .ready
  | .closeOp => .closed
  | .asyncTxBegin => .asyncTx
  | .asyncTxEnd => .ready
  | _ => l

/-- A body followed by the lifecycle state of its success. -/
def thenLife (i : Instr) (core : Op Value) : Op Value := fun s =>
  match core s with
  | .ok v t => .ok v { t with life := endLife i t.life }
  | .error e t => .error e t

theorem thenLife_of_setLife (i : Instr) (x : Op Unit) (l : Life) (h : ∀ l', endLife i l' = l) :
    (do x; setLife l; pure .unit) = thenLife i (do x; pure .unit) := by
  funext s
  simp only [thenLife, Bind.bind, EStateM.bind, setLife, Pure.pure, EStateM.pure]
  cases x s <;> simp [h]

theorem thenLife_of_id (i : Instr) (x : Op Value) (h : ∀ l, endLife i l = l) : x = thenLife i x := by
  funext s
  simp only [thenLife, h]
  cases x s <;> rfl

/-- The body of `Close` without its lifecycle state. -/
def closeCore : Op Value := do
  let l ← getLife
  if l = .asyncTx then do asyncEndSequence; pure .unit
  else pure .unit

theorem closeBlock_eq : closeBlock = thenLife .closeOp closeCore := by
  funext s
  simp only [closeBlock, thenLife, closeCore, Bind.bind, EStateM.bind, getLife]
  cases h : s.life with
  | asyncTx =>
      simp only [if_true, EStateM.bind, setLife, Pure.pure, EStateM.pure]
      cases asyncEndSequence s <;> rfl
  | closed =>
      obtain ⟨life, refused, faults, last, trace, cfg, env, program, pc⟩ := s
      subst h; rfl
  | ready => rfl
  | faulted => rfl

/-- Every operation is the envelope of a body that follows what the operation may do. -/
theorem exec_follows (i : Instr) : ∃ core : Op Value, Follows (allowedBy i) core ∧
    ∀ s, exec i s = runOp i (thenLife i core) s := by
  have hp : ∀ tx rx, allowedBy i (.spi tx rx) := fun _ _ => trivial
  have id : ∀ x : Op Value, (∀ l, endLife i l = l) → Follows (allowedBy i) x → (∀ s, exec i s = runOp i x s) →
      ∃ core : Op Value, Follows (allowedBy i) core ∧ ∀ s, exec i s = runOp i (thenLife i core) s := by
    intro x h hf he
    exact ⟨x, hf, fun s => by rw [← thenLife_of_id i x h]; exact he s⟩
  cases i with
  | rd1 a => exact id _ (fun _ => rfl) ((follows_readSingle (hp _)).bind fun _ => .pure _) fun _ => rfl
  | rdb a n => exact id _ (fun _ => rfl) ((follows_readBurst (hp _)).bind fun _ => .pure _) fun _ => rfl
  | rds a => exact id _ (fun _ => rfl) ((follows_readStatusAt (hp _)).bind fun _ => .pure _) fun _ => rfl
  | stb a => exact id _ (fun _ => rfl) ((follows_strobeAt (hp _)).bind fun _ => .pure _) fun _ => rfl
  | wrb a v => exact id _ (fun _ => rfl) ((follows_writeBurst (hp _)).bind fun _ => .pure _) fun _ => rfl
  | rdbPatable n => exact id _ (fun _ => rfl) ((follows_readBurst (hp _)).bind fun _ => .pure _) fun _ => rfl
  | wrbPatable v => exact id _ (fun _ => rfl) ((follows_writeBurst (hp _)).bind fun _ => .pure _) fun _ => rfl
  | rdbRxFifo n => exact id _ (fun _ => rfl) ((follows_readBurst (hp _)).bind fun _ => .pure _) fun _ => rfl
  | wrbTxFifo v => exact id _ (fun _ => rfl) ((follows_writeBurst (hp _)).bind fun _ => .pure _) fun _ => rfl
  | getFrequencyWord =>
      exact id _ (fun _ => rfl) (((follows_readBurst (hp _)).bind fun _ => .pure _).bind fun _ => .pure _) fun _ => rfl
  | setFrequencyWord w =>
      exact id _ (fun _ => rfl) (((follows_require (by simp [configError]) (by simp [configError])).bind fun _ =>
        follows_writeBurst (hp _)).bind fun _ => .pure _) fun _ => rfl
  | getSymbolRateFP =>
      exact id _ (fun _ => rfl) (((follows_readBurst (hp _)).bind fun _ => .pure _).bind fun _ => .pure _) fun _ => rfl
  | setSymbolRateFP m e =>
      exact id _ (fun _ => rfl) ((follows_setSymbolRateFP hp).bind fun _ => .pure _) fun _ => rfl
  | getFilterBandwidthFP =>
      exact id _ (fun _ => rfl) (((follows_readSingle (hp _)).bind fun _ => .pure _).bind fun _ => .pure _) fun _ => rfl
  | setFilterBandwidthFP m e =>
      exact id _ (fun _ => rfl) (((follows_require (by simp [configError]) (by simp [configError])).bind fun _ =>
        (follows_require (by simp [configError]) (by simp [configError])).bind fun _ =>
          follows_readModifyWrite hp).bind fun _ => .pure _) fun _ => rfl
  | getModulationFormat =>
      exact id _ (fun _ => rfl) (((follows_fieldGet hp).bind fun _ => .pure _).bind fun _ => .pure _) fun _ => rfl
  | setModulationFormat f => exact id _ (fun _ => rfl) ((follows_fieldSet hp).bind fun _ => .pure _) fun _ => rfl
  | getSyncMode =>
      exact id _ (fun _ => rfl) (((follows_readSingle (hp _)).bind fun _ => .pure _).bind fun _ => .pure _) fun _ => rfl
  | setSyncMode mode cs =>
      exact id _ (fun _ => rfl) ((follows_readModifyWrite hp).bind fun _ => .pure _) fun _ => rfl
  | getSyncWord => exact id _ (fun _ => rfl) ((follows_readBurst (hp _)).bind fun _ => .pure _) fun _ => rfl
  | setSyncWord v =>
      exact id _ (fun _ => rfl) (((follows_require (by simp [configError]) (by simp [configError])).bind fun _ =>
        follows_writeBurst (hp _)).bind fun _ => .pure _) fun _ => rfl
  | getPreambleLength =>
      exact id _ (fun _ => rfl) (((follows_fieldGet hp).bind fun _ => .pure _).bind fun _ => .pure _) fun _ => rfl
  | setPreambleLength n =>
      refine id _ (fun _ => rfl) (Follows.bind (x := setPreambleLength n) ?_ fun _ => .pure _) fun _ => rfl
      unfold setPreambleLength
      split
      · exact follows_fieldSet hp
      · exact .raise (by simp [configError]) (by simp [configError])
  | getPacketLength => exact id _ (fun _ => rfl) ((follows_readSingle (hp _)).bind fun _ => .pure _) fun _ => rfl
  | setPacketLength n =>
      exact id _ (fun _ => rfl) (((follows_require (by simp [configError]) (by simp [configError])).bind fun _ =>
        follows_writeBurst (hp _)).bind fun _ => .pure _) fun _ => rfl
  | getPacketLengthMode =>
      exact id _ (fun _ => rfl) (((follows_fieldGet hp).bind fun _ => .pure _).bind fun _ => .pure _) fun _ => rfl
  | setPacketLengthMode mode => exact id _ (fun _ => rfl) ((follows_fieldSet hp).bind fun _ => .pure _) fun _ => rfl
  | setTransceiveMode t => exact id _ (fun _ => rfl) ((follows_fieldSet hp).bind fun _ => .pure _) fun _ => rfl
  | getTransceiveMode =>
      exact id _ (fun _ => rfl) (((follows_fieldGet hp).bind fun _ => .pure _).bind fun _ => .pure _) fun _ => rfl
  | setPAIndex k => exact id _ (fun _ => rfl) ((follows_setPAIndex hp).bind fun _ => .pure _) fun _ => rfl
  | getPatable => exact id _ (fun _ => rfl) ((follows_readBurst (hp _)).bind fun _ => .pure _) fun _ => rfl
  | getOutputPower =>
      exact id _ (fun _ => rfl) (((follows_readBurst (hp _)).bind fun _ => (follows_fieldGet hp).bind fun _ =>
        .pure _).bind fun _ => .pure _) fun _ => rfl
  | setOutputPower values =>
      refine id _ (fun _ => rfl) (Follows.bind (x := setOutputPower values) ?_ fun _ => .pure _) fun _ => rfl
      refine (follows_require (by simp [configError]) (by simp [configError])).bind fun _ => ?_
      split
      · exact .raise (by simp) (by simp)
      · exact (follows_writeBurst (hp _)).bind fun _ => follows_fieldSet hp
  | setCalibrationOnWake v =>
      exact id _ (fun _ => rfl) ((follows_setCalibrationOnWake hp).bind fun _ => .pure _) fun _ => rfl
  | setBaseFrequencyHz hz =>
      refine id _ (fun _ => rfl) (Follows.bind (x := setBaseFrequencyHz hz) ?_ fun _ => .pure _) fun _ => rfl
      refine follows_getCfg.bind fun c => (follows_require (by simp) (by simp)).bind fun _ => ?_
      split
      · exact (follows_warn ⟨hz, rfl, rfl⟩).bind fun _ => follows_writeBurst (hp _)
      · exact follows_writeBurst (hp _)
  | getBaseFrequencyHz =>
      exact id _ (fun _ => rfl) ((((follows_readBurst (hp _)).bind fun _ => .pure _).bind fun _ =>
        follows_getCfg.bind fun _ => .pure _).bind fun _ => .pure _) fun _ => rfl
  | setSymbolRateBaud baud =>
      exact id _ (fun _ => rfl) ((follows_getCfg.bind fun _ => (follows_require (by simp) (by simp)).bind fun _ =>
        (follows_require (by simp) (by simp)).bind fun _ => follows_setSymbolRateFP hp).bind fun _ => .pure _)
        fun _ => rfl
  | getSymbolRateBaud =>
      exact id _ (fun _ => rfl) ((((follows_readBurst (hp _)).bind fun _ => .pure _).bind fun _ =>
        follows_getCfg.bind fun _ => .pure _).bind fun _ => .pure _) fun _ => rfl
  | getFilterBandwidthHz =>
      exact id _ (fun _ => rfl) ((((follows_readSingle (hp _)).bind fun _ => .pure _).bind fun _ =>
        follows_getCfg.bind fun _ => .pure _).bind fun _ => .pure _) fun _ => rfl
  | openOp =>
      refine ⟨do (do strobe .sres; verifyIdentity; configureDefaults; requireIdle .notIdleAfterConfig); pure .unit,
        (follows_openCore hp).bind fun _ => .pure _, fun s => ?_⟩
      rw [← thenLife_of_setLife .openOp _ .ready fun _ => rfl]
      simp only [bind_assoc]; rfl
  | closeOp =>
      refine ⟨closeCore, follows_getLife.bind fun l => ?_, fun s => ?_⟩
      · split
        · exact (follows_asyncEndSequence hp).bind fun _ => .pure _
        · exact .pure _
      · rw [← closeBlock_eq]; rfl
  | getMarcstate => exact id _ (fun _ => rfl) ((follows_readStatus hp).bind fun _ => .pure _) fun _ => rfl
  | transmit payload => exact id _ (fun _ => rfl) ((follows_transmit hp).bind fun _ => .pure _) fun _ => rfl
  | receive t => exact id _ (fun _ => rfl) (follows_receive hp fun _ => rfl) fun _ => rfl
  | asyncTxBegin =>
      refine ⟨do (do setTransceiveMode .asynchronousSerial; strobe .stx); pure .unit,
        ((follows_fieldSet hp).bind fun _ => follows_strobe hp).bind fun _ => .pure _, fun s => ?_⟩
      rw [← thenLife_of_setLife .asyncTxBegin _ .asyncTx fun _ => rfl]
      simp only [bind_assoc]; rfl
  | asyncTxEnd =>
      refine ⟨do asyncEndSequence; pure .unit, (follows_asyncEndSequence hp).bind fun _ => .pure _, fun s => ?_⟩
      rw [← thenLife_of_setLife .asyncTxEnd _ .ready fun _ => rfl]; rfl
  | getChecksumEnabled | getDataWhiteningEnabled | getManchesterEnabled | getPAIndex | getCalibrationOnWake =>
      exact id _ (fun _ => rfl) ((follows_fieldGet hp).bind fun _ => .pure _) fun _ => rfl
  | enableChecksum | disableChecksum | enableDataWhitening | disableDataWhitening | enableManchester
  | disableManchester => exact id _ (fun _ => rfl) ((follows_fieldSet hp).bind fun _ => .pure _) fun _ => rfl
  | resetOp | stbSres | stbSfstxon | stbSxoff | stbScal | stbSrx | stbStx | stbSidle | stbSwor | stbSpwd | stbSfrx
  | stbSftx | stbSworrst | stbSnop =>
      exact id _ (fun _ => rfl) ((follows_strobeAt (hp _)).bind fun _ => .pure _) fun _ => rfl
  | rdsPartnum | rdsVersion | rdsFreqest | rdsLqi | rdsRssi | rdsMarcstate | rdsWortime1 | rdsWortime0 | rdsPktstatus
  | rdsVcoVcDac | rdsTxbytes | rdsRxbytes | rdsRcctrl1Status | rdsRcctrl0Status =>
      exact id _ (fun _ => rfl) ((follows_readStatusAt (hp _)).bind fun _ => .pure _) fun _ => rfl

/-- Everything an operation can do, said once: it is refused for the lifecycle state; or, after allowed interactions, it
ends well, raises an error, or is refused for a transaction's form. -/
theorem exec_cases (i : Instr) (s : State) :
    (accepts s.life i = false ∧ exec i s = .next ((s.started i).refuse (.wrongState (.op i) s.life))) ∨
    (accepts s.life i = true ∧
      ((∃ u v, Path (allowedBy i) (s.started i) u ∧
          exec i s = .next (State.emit { u with life := endLife i u.life } (.opEnd (.ok v)))) ∨
        (∃ u' u e, Path (allowedBy i) (s.started i) u' ∧ Stops (allowedBy i) e u' u ∧
          exec i s = .next (u.takeError ⟨i, e⟩)) ∨
        (∃ u h n, Path (allowedBy i) (s.started i) u ∧ exec i s = .next (u.refuse (.illegalForm h n))))) := by
  obtain ⟨core, hf, he⟩ := exec_follows i
  cases ha : accepts s.life i with
  | false =>
      left
      refine ⟨rfl, ?_⟩
      rw [he, runOp, if_neg (by simp [ha])]
  | true =>
      right
      refine ⟨rfl, ?_⟩
      have h := hf (s.started i)
      rw [he, runOp, if_pos ha]
      unfold thenLife
      cases hc : core (s.started i) with
      | ok v u => rw [hc] at h; exact .inl ⟨u, v, h, rfl⟩
      | error e u =>
          rw [hc] at h
          cases e with
          | err e => obtain ⟨u', h1, h2⟩ := h; exact .inr (.inl ⟨u', u, e, h1, h2, rfl⟩)
          | refuse r => obtain ⟨h1, b, n, rfl⟩ := h; exact .inr (.inr ⟨u, b, n, h1, rfl⟩)

end Sys2Proof.Machine
end

