-- ==== Sys2Proof/Laws/PerInstr.lean ====
section
/-! SUPPORT. One lemma per instruction: a well-formed transaction's frame is a row of 30_encoding.md R89. -/

namespace Sys2Proof.Laws

/-- The words of a well-formed instruction are a form the block may issue (30_encoding.md R83, R89). -/
def EncodeLegal.Statement (i : Instr) : Prop :=
  i.wf = true → ∀ tx, encode i = some tx → legalFrame tx = true

theorem EncodeLegal.rd1 (a : Addr6) : EncodeLegal.Statement (.rd1 a) := fun h _ e => by
  cases e; rw [legalFrame_readSingle]; exact h

theorem EncodeLegal.rdb (a : Addr6) (n : Nat) : EncodeLegal.Statement (.rdb a n) := fun h _ e => by
  cases e; rw [legalFrame_readBurst]
  have h := of_decide_eq_true h
  simp only [legalForm, Bool.or_eq_true, decide_eq_true_eq]
  omega

theorem EncodeLegal.rds (a : Addr6) : EncodeLegal.Statement (.rds a) := fun h _ e => by
  cases e; rw [legalFrame_readStatus]
  have h := of_decide_eq_true h
  simp only [legalForm, Bool.or_eq_true, decide_eq_true_eq]
  exact .inl (.inl (.inr ⟨h.1, h.2, trivial⟩))

theorem EncodeLegal.stb (a : Addr6) : EncodeLegal.Statement (.stb a) := fun h _ e => by
  cases e; rw [legalFrame_strobe]; exact h

theorem EncodeLegal.wrb (a : Addr6) (v : Bytes) : EncodeLegal.Statement (.wrb a v) := fun h _ e => by
  cases e; rw [legalFrame_writeBurst]
  have h := of_decide_eq_true h
  simp only [legalForm, Bool.or_eq_true, decide_eq_true_eq]
  omega

theorem EncodeLegal.resetOp : EncodeLegal.Statement .resetOp := fun _ _ e => by cases e; decide

theorem EncodeLegal.stbSres : EncodeLegal.Statement .stbSres := fun _ _ e => by cases e; decide

theorem EncodeLegal.stbSfstxon : EncodeLegal.Statement .stbSfstxon := fun _ _ e => by cases e; decide

theorem EncodeLegal.stbSxoff : EncodeLegal.Statement .stbSxoff := fun _ _ e => by cases e; decide

theorem EncodeLegal.stbScal : EncodeLegal.Statement .stbScal := fun _ _ e => by cases e; decide

theorem EncodeLegal.stbSrx : EncodeLegal.Statement .stbSrx := fun _ _ e => by cases e; decide

theorem EncodeLegal.stbStx : EncodeLegal.Statement .stbStx := fun _ _ e => by cases e; decide

theorem EncodeLegal.stbSidle : EncodeLegal.Statement .stbSidle := fun _ _ e => by cases e; decide

theorem EncodeLegal.stbSwor : EncodeLegal.Statement .stbSwor := fun _ _ e => by cases e; decide

theorem EncodeLegal.stbSpwd : EncodeLegal.Statement .stbSpwd := fun _ _ e => by cases e; decide

theorem EncodeLegal.stbSfrx : EncodeLegal.Statement .stbSfrx := fun _ _ e => by cases e; decide

theorem EncodeLegal.stbSftx : EncodeLegal.Statement .stbSftx := fun _ _ e => by cases e; decide

theorem EncodeLegal.stbSworrst : EncodeLegal.Statement .stbSworrst := fun _ _ e => by cases e; decide

theorem EncodeLegal.stbSnop : EncodeLegal.Statement .stbSnop := fun _ _ e => by cases e; decide

theorem EncodeLegal.rdsPartnum : EncodeLegal.Statement .rdsPartnum := fun _ _ e => by cases e; decide

theorem EncodeLegal.rdsVersion : EncodeLegal.Statement .rdsVersion := fun _ _ e => by cases e; decide

theorem EncodeLegal.rdsFreqest : EncodeLegal.Statement .rdsFreqest := fun _ _ e => by cases e; decide

theorem EncodeLegal.rdsLqi : EncodeLegal.Statement .rdsLqi := fun _ _ e => by cases e; decide

theorem EncodeLegal.rdsRssi : EncodeLegal.Statement .rdsRssi := fun _ _ e => by cases e; decide

theorem EncodeLegal.rdsMarcstate : EncodeLegal.Statement .rdsMarcstate := fun _ _ e => by cases e; decide

theorem EncodeLegal.rdsWortime1 : EncodeLegal.Statement .rdsWortime1 := fun _ _ e => by cases e; decide

theorem EncodeLegal.rdsWortime0 : EncodeLegal.Statement .rdsWortime0 := fun _ _ e => by cases e; decide

theorem EncodeLegal.rdsPktstatus : EncodeLegal.Statement .rdsPktstatus := fun _ _ e => by cases e; decide

theorem EncodeLegal.rdsVcoVcDac : EncodeLegal.Statement .rdsVcoVcDac := fun _ _ e => by cases e; decide

theorem EncodeLegal.rdsTxbytes : EncodeLegal.Statement .rdsTxbytes := fun _ _ e => by cases e; decide

theorem EncodeLegal.rdsRxbytes : EncodeLegal.Statement .rdsRxbytes := fun _ _ e => by cases e; decide

theorem EncodeLegal.rdsRcctrl1Status : EncodeLegal.Statement .rdsRcctrl1Status := fun _ _ e => by cases e; decide

theorem EncodeLegal.rdsRcctrl0Status : EncodeLegal.Statement .rdsRcctrl0Status := fun _ _ e => by cases e; decide

theorem EncodeLegal.rdbPatable (n : Nat) : EncodeLegal.Statement (.rdbPatable n) := fun h _ e => by
  cases e; rw [legalFrame_readBurst]
  have h := of_decide_eq_true h
  simp [legalForm, patableAddr, patableEntries, h]

theorem EncodeLegal.wrbPatable (v : Bytes) : EncodeLegal.Statement (.wrbPatable v) := fun h _ e => by
  cases e; rw [legalFrame_writeBurst]
  have h := of_decide_eq_true h
  simp only [legalForm, Bool.or_eq_true, decide_eq_true_eq]
  exact .inl (.inr ⟨rfl, h⟩)

theorem EncodeLegal.rdbRxFifo (n : Nat) : EncodeLegal.Statement (.rdbRxFifo n) := fun h _ e => by
  cases e; rw [legalFrame_readBurst]
  have h := of_decide_eq_true h
  simp only [legalForm, Bool.or_eq_true, decide_eq_true_eq]
  exact .inr ⟨rfl, h⟩

theorem EncodeLegal.wrbTxFifo (v : Bytes) : EncodeLegal.Statement (.wrbTxFifo v) := fun h _ e => by
  cases e; rw [legalFrame_writeBurst]
  have h := of_decide_eq_true h
  simp only [legalForm, Bool.or_eq_true, decide_eq_true_eq]
  exact .inr ⟨rfl, h⟩

theorem EncodeLegal.getFrequencyWord : EncodeLegal.Statement .getFrequencyWord := fun _ _ e => by cases e

theorem EncodeLegal.setFrequencyWord (w : Int) : EncodeLegal.Statement (.setFrequencyWord w) := fun _ _ e => by cases e

theorem EncodeLegal.getSymbolRateFP : EncodeLegal.Statement .getSymbolRateFP := fun _ _ e => by cases e

theorem EncodeLegal.setSymbolRateFP (m e : Int) : EncodeLegal.Statement (.setSymbolRateFP m e) := fun _ _ e => by cases e

theorem EncodeLegal.getFilterBandwidthFP : EncodeLegal.Statement .getFilterBandwidthFP := fun _ _ e => by cases e

theorem EncodeLegal.setFilterBandwidthFP (m e : Int) : EncodeLegal.Statement (.setFilterBandwidthFP m e) := fun _ _ e => by cases e

theorem EncodeLegal.getModulationFormat : EncodeLegal.Statement .getModulationFormat := fun _ _ e => by cases e

theorem EncodeLegal.setModulationFormat (f : ModulationFormat) : EncodeLegal.Statement (.setModulationFormat f) := fun _ _ e => by cases e

theorem EncodeLegal.getSyncMode : EncodeLegal.Statement .getSyncMode := fun _ _ e => by cases e

theorem EncodeLegal.setSyncMode (mode : SyncMode) (cs : Option Bool) : EncodeLegal.Statement (.setSyncMode mode cs) := fun _ _ e => by cases e

theorem EncodeLegal.getSyncWord : EncodeLegal.Statement .getSyncWord := fun _ _ e => by cases e

theorem EncodeLegal.setSyncWord (v : Bytes) : EncodeLegal.Statement (.setSyncWord v) := fun _ _ e => by cases e

theorem EncodeLegal.getPreambleLength : EncodeLegal.Statement .getPreambleLength := fun _ _ e => by cases e

theorem EncodeLegal.setPreambleLength (nbytes : Int) : EncodeLegal.Statement (.setPreambleLength nbytes) := fun _ _ e => by cases e

theorem EncodeLegal.getPacketLength : EncodeLegal.Statement .getPacketLength := fun _ _ e => by cases e

theorem EncodeLegal.setPacketLength (n : Int) : EncodeLegal.Statement (.setPacketLength n) := fun _ _ e => by cases e

theorem EncodeLegal.getPacketLengthMode : EncodeLegal.Statement .getPacketLengthMode := fun _ _ e => by cases e

theorem EncodeLegal.setPacketLengthMode (mode : PacketLengthMode) : EncodeLegal.Statement (.setPacketLengthMode mode) := fun _ _ e => by cases e

theorem EncodeLegal.getChecksumEnabled : EncodeLegal.Statement .getChecksumEnabled := fun _ _ e => by cases e

theorem EncodeLegal.enableChecksum : EncodeLegal.Statement .enableChecksum := fun _ _ e => by cases e

theorem EncodeLegal.disableChecksum : EncodeLegal.Statement .disableChecksum := fun _ _ e => by cases e

theorem EncodeLegal.getDataWhiteningEnabled : EncodeLegal.Statement .getDataWhiteningEnabled := fun _ _ e => by cases e

theorem EncodeLegal.enableDataWhitening : EncodeLegal.Statement .enableDataWhitening := fun _ _ e => by cases e

theorem EncodeLegal.disableDataWhitening : EncodeLegal.Statement .disableDataWhitening := fun _ _ e => by cases e

theorem EncodeLegal.getTransceiveMode : EncodeLegal.Statement .getTransceiveMode := fun _ _ e => by cases e

theorem EncodeLegal.setTransceiveMode (t : TransceiveMode) : EncodeLegal.Statement (.setTransceiveMode t) := fun _ _ e => by cases e

theorem EncodeLegal.getManchesterEnabled : EncodeLegal.Statement .getManchesterEnabled := fun _ _ e => by cases e

theorem EncodeLegal.enableManchester : EncodeLegal.Statement .enableManchester := fun _ _ e => by cases e

theorem EncodeLegal.disableManchester : EncodeLegal.Statement .disableManchester := fun _ _ e => by cases e

theorem EncodeLegal.getPAIndex : EncodeLegal.Statement .getPAIndex := fun _ _ e => by cases e

theorem EncodeLegal.setPAIndex (i : Int) : EncodeLegal.Statement (.setPAIndex i) := fun _ _ e => by cases e

theorem EncodeLegal.getPatable : EncodeLegal.Statement .getPatable := fun _ _ e => by cases e

theorem EncodeLegal.getOutputPower : EncodeLegal.Statement .getOutputPower := fun _ _ e => by cases e

theorem EncodeLegal.setOutputPower (values : List Int) : EncodeLegal.Statement (.setOutputPower values) := fun _ _ e => by cases e

theorem EncodeLegal.getCalibrationOnWake : EncodeLegal.Statement .getCalibrationOnWake := fun _ _ e => by cases e

theorem EncodeLegal.setCalibrationOnWake (v : Int) : EncodeLegal.Statement (.setCalibrationOnWake v) := fun _ _ e => by cases e

theorem EncodeLegal.setBaseFrequencyHz (hz : Hz) : EncodeLegal.Statement (.setBaseFrequencyHz hz) := fun _ _ e => by cases e

theorem EncodeLegal.getBaseFrequencyHz : EncodeLegal.Statement .getBaseFrequencyHz := fun _ _ e => by cases e

theorem EncodeLegal.setSymbolRateBaud (baud : Baud) : EncodeLegal.Statement (.setSymbolRateBaud baud) := fun _ _ e => by cases e

theorem EncodeLegal.getSymbolRateBaud : EncodeLegal.Statement .getSymbolRateBaud := fun _ _ e => by cases e

theorem EncodeLegal.getFilterBandwidthHz : EncodeLegal.Statement .getFilterBandwidthHz := fun _ _ e => by cases e

theorem EncodeLegal.openOp : EncodeLegal.Statement .openOp := fun _ _ e => by cases e

theorem EncodeLegal.closeOp : EncodeLegal.Statement .closeOp := fun _ _ e => by cases e

theorem EncodeLegal.getMarcstate : EncodeLegal.Statement .getMarcstate := fun _ _ e => by cases e

theorem EncodeLegal.transmit (payload : Bytes) : EncodeLegal.Statement (.transmit payload) := fun _ _ e => by cases e

theorem EncodeLegal.receive (t : Timeout) : EncodeLegal.Statement (.receive t) := fun _ _ e => by cases e

theorem EncodeLegal.asyncTxBegin : EncodeLegal.Statement .asyncTxBegin := fun _ _ e => by cases e

theorem EncodeLegal.asyncTxEnd : EncodeLegal.Statement .asyncTxEnd := fun _ _ e => by cases e

end Sys2Proof.Laws
end

