-- ==== Sys2Proof/Tests/Slice0.lean ====
section
/-! SUPPORT. Tests of the model, expected results from the spec's own examples and vectors (95_test_vectors.md), and a
witness for every statement with hypotheses. -/

namespace Sys2Proof.Tests

open Sys2Proof Sys2Proof.Machine

-- One theorem at a time: a checker with a large stack per thread has room for few threads.
set_option Elab.async false

/-! ### Well-formedness: an ill-formed term for each check -/

theorem test_wf_rd1 : (Instr.rd1 0x2F).wf = false ∧ (Instr.rd1 0x2E).wf = true := by decide
theorem test_wf_rdb_empty : (Instr.rdb 0x0D 0).wf = false ∧ (Instr.rdb 0x0D 1).wf = true := by decide
theorem test_wf_rdb_past : (Instr.rdb 0x2C 4).wf = false ∧ (Instr.rdb 0x2C 3).wf = true := by decide
theorem test_wf_rds : (Instr.rds 0x3E).wf = false ∧ (Instr.rds 0x2F).wf = false ∧ (Instr.rds 0x37).wf = true := by
  decide
theorem test_wf_stb : (Instr.stb 0x37).wf = false ∧ (Instr.stb 0x2F).wf = false ∧ (Instr.stb 0x3D).wf = true := by
  decide
theorem test_wf_wrb : (Instr.wrb 0x08 []).wf = false ∧ (Instr.wrb 0x2E [1, 2]).wf = false := by decide
theorem test_wf_rdbPatable : (Instr.rdbPatable 0).wf = false ∧ (Instr.rdbPatable 9).wf = false := by decide
theorem test_wf_wrbPatable : (Instr.wrbPatable []).wf = false ∧
    (Instr.wrbPatable (List.replicate 9 0)).wf = false := by decide
theorem test_wf_rdbRxFifo : (Instr.rdbRxFifo 0).wf = false := by decide
theorem test_wf_wrbTxFifo : (Instr.wrbTxFifo []).wf = false := by decide

/-! ### Decoding: frames written out from 30_encoding.md R80 to R83 and R95 to R98, the header bit by bit -/

/-- RW 1, B 0, A 001000. -/
theorem test_decode_rd1 : decode [0b1_0_001000, 0x00] = .ok (.rd1 0x08) := by decide
/-- RW 1, B 1, A 001101, three fillers. -/
theorem test_decode_rdb : decode [0b1_1_001101, 0, 0, 0] = .ok (.rdb 0x0D 3) := by decide
/-- RW 0, B 1, A 000100. -/
theorem test_decode_wrb : decode [0b0_1_000100, 0x12, 0x34] = .ok (.wrb 0x04 [0x12, 0x34]) := by decide
/-- RW 1, B 1, A 111110. -/
theorem test_decode_rdbPatable : decode (0b1_1_111110 :: List.replicate 8 0) = .ok (.rdbPatable 8) := by decide
/-- RW 0, B 1, A 111110. -/
theorem test_decode_wrbPatable : decode [0b0_1_111110, 0x00, 0xC0] = .ok (.wrbPatable [0x00, 0xC0]) := by decide
/-- RW 1, B 1, A 111111. -/
theorem test_decode_rdbRxFifo : decode [0b1_1_111111, 0, 0] = .ok (.rdbRxFifo 2) := by decide
/-- RW 0, B 1, A 111111. -/
theorem test_decode_wrbTxFifo : decode [0b0_1_111111, 0x01] = .ok (.wrbTxFifo [0x01]) := by decide
/-- RW 0, B 0: the strobe headers of R95. -/
theorem test_decode_strobes :
    [0x30, 0x31, 0x32, 0x33, 0x34, 0x35, 0x36, 0x38, 0x39, 0x3A, 0x3B, 0x3C, 0x3D].map (fun h => decode [h]) =
      [.ok .stbSres, .ok .stbSfstxon, .ok .stbSxoff, .ok .stbScal, .ok .stbSrx, .ok .stbStx, .ok .stbSidle, .ok .stbSwor,
       .ok .stbSpwd, .ok .stbSfrx, .ok .stbSftx, .ok .stbSworrst, .ok .stbSnop] := by decide
/-- RW 1, B 1, one filler: the status read headers of R96. -/
theorem test_decode_status :
    [0xF0, 0xF1, 0xF2, 0xF3, 0xF4, 0xF5, 0xF6, 0xF7, 0xF8, 0xF9, 0xFA, 0xFB, 0xFC, 0xFD].map (fun h => decode [h, 0]) =
      [.ok .rdsPartnum, .ok .rdsVersion, .ok .rdsFreqest, .ok .rdsLqi, .ok .rdsRssi, .ok .rdsMarcstate, .ok .rdsWortime1,
       .ok .rdsWortime0, .ok .rdsPktstatus, .ok .rdsVcoVcDac, .ok .rdsTxbytes, .ok .rdsRxbytes, .ok .rdsRcctrl1Status,
       .ok .rdsRcctrl0Status] := by decide
/-- The refused rows of 95_test_vectors.md 2.1. -/
theorem test_decode_refused :
    decode [0xAF, 0] = .error .singleReadNoRegister ∧ decode [0xB5, 0] = .error .statusReadSingle ∧
    decode [0xBF, 0] = .error .singleReadNoRegister ∧ decode [0xEC, 0, 0, 0, 0] = .error .burstPastConfig ∧
    decode [0xEF, 0] = .error .burstReadNoRegister ∧ decode [0xF5, 0, 0] = .error .statusReadLength ∧
    decode (0xFE :: List.replicate 9 0) = .error .patableTooLong ∧ decode [0x37] = .error .singleWriteNoStrobe ∧
    decode [0x36, 0] = .error .dataAfterStrobe ∧ decode [0x08, 0] = .error .singleWriteNoStrobe ∧
    decode [0x48] = .error .emptyBurst ∧ decode [0x75, 0] = .error .burstWriteNoRegister ∧
    decode [] = .error .noHeader ∧ decode [0x80] = .error .singleReadLength := by decide
/-- The table's words, the header in bits 7:0 of an opcode-table row. -/
theorem test_decodeTableWord :
    decodeTableWord 8 0x80 = some (.rd1 0x00) ∧ decodeTableWord 8 0x40 = some (.wrb 0x00 [0x00]) ∧
    decodeTableWord 8 0x35 = some .stbStx ∧ decodeTableWord 8 0xF5 = some .rdsMarcstate ∧
    decodeTableWord 16 0x0588 = some (.rd1 0x08) ∧ decodeTableWord 8 0x37 = none := by decide

/-! ### Small states -/

/-- A block in a lifecycle state with the default configuration. -/
def block (l : Life) (env : Environment) : State := { State.reset with life := l, env := env }

/-- A block in READY whose chip gives these answers. -/
def answering (spi : List Bytes) : State := block .ready (.scripted spi [] 0)

/-- RR as 95_test_vectors.md takes it: fresh from chip reset. -/
def fresh : Responder := Responder.initial [] []

/-- RR after `Open` (70_reset_and_hazards.md R394). -/
def opened : Responder := { fresh with regs := [(0x08, 0x05), (0x12, 0x32), (0x18, 0x14), (0x22, 0x11)] }

def atReset : State := block .ready (.responder fresh)
def afterOpen : State := block .ready (.responder opened)

/-- READY over RR with one register set. -/
def withReg (a : Nat) (v : Byte) : State := block .ready (.responder { fresh with regs := [(a, v)] })

/-- How an operation ended, the frames it sent, and the lifecycle state it left. -/
def ran (i : Instr) (s : State) : Option (OpOutcome × List Bytes × Life) :=
  match exec i s with
  | .next t =>
      match t.trace.getLast? with
      | some (.opEnd o) => some (o, framesIn t.trace, t.life)
      | _ => none
  | _ => none

/-- An operation that returned a result in READY after sending these frames. -/
def okReady (v : Value) (frames : List Bytes) : Option (OpOutcome × List Bytes × Life) := some (.ok v, frames, .ready)

/-- The state an operation leaves. -/
def after (i : Instr) (s : State) : State :=
  match exec i s with
  | .next t => t
  | _ => s

/-! ### Transactions (95_test_vectors.md 2.2; 40_bus_codec.md examples) -/

theorem test_rd1 : ran (.rd1 0x08) atReset = okReady (.byte 0x45) [[0x88, 0x00]] := by decide +kernel
/-- The LENGTH vectors: no status observed, FAULTED. -/
theorem test_rd1_length :
    ∀ rx ∈ ([[0x0F], [0x0F, 0x45, 0x00], []] : List Bytes),
      (after (.rd1 0x08) (answering [rx])).life = .faulted ∧ (after (.rd1 0x08) (answering [rx])).lastStatus = none ∧
      (after (.rd1 0x08) (answering [rx])).faults =
        [⟨.rd1 0x08,
          { kind := .length, header := some 0x88, expected := some (.int 2), actual := some (.int rx.length) }⟩] := by
  decide +kernel
theorem test_rdb : ran (.rdb 0x0D 3) atReset = okReady (.bytes [0x1E, 0xC4, 0xEC]) [[0xCD, 0, 0, 0]] := by
  decide +kernel
theorem test_rdb_past : ran (.rdb 0x2C 4) atReset = some (.refused (.illegalForm 0xEC 4), [], .ready) := by
  decide +kernel
theorem test_rds : ran (.rds 0x31) atReset = okReady (.byte 0x14) [[0xF1, 0x00]] := by decide +kernel
theorem test_stb : ran (.stb 0x36) atReset = okReady .unit [[0x36]] := by decide +kernel
theorem test_stb_refused : ran (.stb 0x37) atReset = some (.refused (.illegalForm 0x37 0), [], .ready) := by
  decide +kernel
/-- The ADVISORY vector: one warning, at index 2. -/
theorem test_wrb_advisory :
    (after (.wrb 0x04 [0x12, 0x34]) (answering [[0x1F, 0x1F, 0x0F]])).trace =
      [.opStart (.op (.wrb 0x04 [0x12, 0x34])), .xfer [0x44, 0x12, 0x34] [0x1F, 0x1F, 0x0F], .statusObserved 0x1F,
       .warning (.echoMismatch 0x44 2 0x1F 0x0F), .opEnd (.ok .unit)] := by decide +kernel

/-- A state with an echo policy. -/
def policed (p : EchoPolicy) (spi : List Bytes) : State :=
  { answering spi with cfg := { Config.default with echoPolicy := p } }

/-- The MATCH_STATUS and MATCH_0F vectors. -/
theorem test_wrb_checked :
    (after (.wrb 0x04 [0x12, 0x34]) (policed .matchStatus [[0x1F, 0x1F, 0x0F]])).faults.map (·.info) =
      [{ kind := .echo, header := some 0x44, index := some 2,
         expected := some (.byte 0x1F), actual := some (.byte 0x0F) }] ∧
    (after (.wrb 0x04 [0x12, 0x34]) (policed .match0F [[0x1F, 0x1F, 0x0F]])).faults.map (·.info) =
      [{ kind := .echo, header := some 0x44, index := some 1,
         expected := some (.byte 0x0F), actual := some (.byte 0x1F) }] ∧
    ran (.wrb 0x04 [0x12, 0x34]) (policed .match0F [[0x1F, 0x0F, 0x0F]]) = okReady .unit [[0x44, 0x12, 0x34]] := by
  decide +kernel
theorem test_resetOp : ran .resetOp atReset = okReady .unit [[0x30]] := by decide +kernel
theorem test_resetOp_closed : ran .resetOp (block .closed (.responder fresh)) =
    some (.refused (.wrongState (.op .resetOp) .closed), [], .closed) := by decide +kernel
/-- Every strobe sends its header of R95 (`STB SNOP`'s LENGTH vector among them). -/
theorem test_strobes :
    (strobeHeaders.all fun p => decide (ran p.1 (answering [[0x0F]]) = okReady .unit [[p.2]])) = true ∧
    ran .stbSnop (answering [[0x0F, 0x0F]]) =
      some (.err ⟨.stbSnop, { kind := .length, header := some 0x3D, expected := some (.int 1), actual := some (.int 2) }⟩,
        [[0x3D]], .faulted) := by decide +kernel
/-- Every status read sends its header of R96 and returns the byte after the status byte. -/
theorem test_statusReads :
    (statusHeaders.all fun p =>
      decide (ran p.1 (answering [[0x0F, 0xA5]]) = okReady (.byte 0xA5) [[p.2, 0x00]])) = true := by decide +kernel
theorem test_rdbPatable : ran (.rdbPatable 8) atReset =
    okReady (.bytes [0xC6, 0, 0, 0, 0, 0, 0, 0]) [0xFE :: List.replicate 8 0] := by decide +kernel
theorem test_wrbPatable : (after (.wrbPatable [0x00, 0xC0]) atReset).env =
    .responder { fresh with patable := [(0, 0x00), (1, 0xC0)] } := by decide +kernel
/-- An empty RX FIFO: zeros. -/
theorem test_rdbRxFifo : ran (.rdbRxFifo 2) atReset = okReady (.bytes [0x00, 0x00]) [[0xFF, 0, 0]] := by decide +kernel
theorem test_wrbTxFifo : ran (.wrbTxFifo [0x03, 0xAA, 0xBB, 0xCC]) atReset =
    okReady .unit [[0x7F, 0x03, 0xAA, 0xBB, 0xCC]] := by decide +kernel

/-! ### Register fields (95_test_vectors.md 2.3) -/

theorem test_merge :
    [merge 0x45 lengthConfig 0, merge 0x44 lengthConfig 1, merge 0x45 whiteData 0, merge 0x05 pktFormat 3,
     merge 0x35 pktFormat 0, merge 0x02 modFormat 3, merge 0x32 modFormat 7, merge 0x10 paPower 1, merge 0x17 paPower 0,
     merge 0x04 fsAutocal 1, merge 0xFF fsAutocal 0, merge 0x22 numPreamble 4, merge 0x00 manchesterEn 1] =
    [0x44, 0x45, 0x05, 0x35, 0x05, 0x32, 0x72, 0x11, 0x10, 0x14, 0xCF, 0x42, 0x08] := by decide
theorem test_getFrequencyWord : ran .getFrequencyWord atReset = okReady (.word24 0x1EC4EC) [[0xCD, 0, 0, 0]] := by
  decide +kernel
theorem test_setFrequencyWord : ran (.setFrequencyWord 0x10B071) atReset =
    okReady .unit [[0x4D, 0x10, 0xB0, 0x71]] := by decide +kernel
theorem test_setFrequencyWord_range : ran (.setFrequencyWord 0x1000000) atReset =
    some (.err ⟨.setFrequencyWord 0x1000000,
      { kind := .frequencyRange, reg := some 0x0D, value := some (.int 0x1000000) }⟩, [], .ready) := by
  decide +kernel
theorem test_getSymbolRateFP : ran .getSymbolRateFP atReset = okReady (.symbolRateFP 34 12) [[0xD0, 0, 0]] := by
  decide +kernel
theorem test_setSymbolRateFP : ran (.setSymbolRateFP 131 8) atReset =
    okReady .unit [[0x90, 0x00], [0x50, 0x88, 0x83]] := by decide +kernel
/-- The first check listed wins. -/
theorem test_setSymbolRateFP_order : ran (.setSymbolRateFP 256 16) atReset =
    some (.err ⟨.setSymbolRateFP 256 16, { kind := .fieldRange, reg := some 0x11, value := some (.int 256) }⟩, [],
      .ready) := by decide +kernel
theorem test_getFilterBandwidthFP : ran .getFilterBandwidthFP atReset =
    okReady (.filterBandwidthFP 0 2) [[0x90, 0x00]] := by decide +kernel
theorem test_setFilterBandwidthFP : ran (.setFilterBandwidthFP 3 3) atReset =
    okReady .unit [[0x90, 0x00], [0x50, 0xFC]] := by decide +kernel
theorem test_getModulationFormat : ran .getModulationFormat afterOpen =
    okReady (.modulationFormat (.known .askOok)) [[0x92, 0x00]] := by decide +kernel
theorem test_getModulationFormat_unknown : ran .getModulationFormat (answering [[0x0F, 0x22]]) =
    okReady (.modulationFormat (.unknown 0b010)) [[0x92, 0x00]] := by decide +kernel
theorem test_setModulationFormat : ran (.setModulationFormat .msk) afterOpen =
    okReady .unit [[0x92, 0x00], [0x52, 0x72]] := by decide +kernel
theorem test_getSyncMode : ran .getSyncMode atReset =
    okReady (.syncMode (.known .transmit16Match16Bits) false) [[0x92, 0x00]] := by decide +kernel
theorem test_setSyncMode : ran (.setSyncMode .transmit32Match30Bits (some true)) atReset =
    okReady .unit [[0x92, 0x00], [0x52, 0x07]] := by decide +kernel
theorem test_setSyncMode_keeps : ran (.setSyncMode .noPreambleAndSyncWord none) (withReg 0x12 0x07) =
    okReady .unit [[0x92, 0x00], [0x52, 0x04]] := by decide +kernel
theorem test_getSyncWord : ran .getSyncWord atReset = okReady (.bytes [0xD3, 0x91]) [[0xC4, 0, 0]] := by decide +kernel
theorem test_setSyncWord : ran (.setSyncWord [0x12, 0x34]) atReset = okReady .unit [[0x44, 0x12, 0x34]] := by
  decide +kernel
theorem test_setSyncWord_length : ran (.setSyncWord [0x12]) atReset =
    some (.err ⟨.setSyncWord [0x12], { kind := .syncWordLength, reg := some 0x04, value := some (.int 1) }⟩, [],
      .ready) := by decide +kernel
theorem test_getPreambleLength : ran .getPreambleLength atReset = okReady (.preambleLength 4) [[0x93, 0x00]] := by
  decide +kernel
theorem test_setPreambleLength : ran (.setPreambleLength 8) atReset =
    okReady .unit [[0x93, 0x00], [0x53, 0x42]] := by decide +kernel
theorem test_setPreambleLength_unlisted : ran (.setPreambleLength 5) atReset =
    some (.err ⟨.setPreambleLength 5, { kind := .preambleLength, reg := some 0x13, value := some (.int 5) }⟩, [],
      .ready) := by decide +kernel
theorem test_getPacketLength : ran .getPacketLength atReset = okReady (.byte 255) [[0x86, 0x00]] := by decide +kernel
theorem test_setPacketLength : ran (.setPacketLength 255) atReset = okReady .unit [[0x46, 0xFF]] := by decide +kernel
theorem test_setPacketLength_zero : ran (.setPacketLength 0) atReset =
    some (.err ⟨.setPacketLength 0, { kind := .packetLength, reg := some 0x06, value := some (.int 0) }⟩, [],
      .ready) := by decide +kernel
theorem test_getPacketLengthMode : ran .getPacketLengthMode (answering [[0x0F, 0x06]]) =
    okReady (.packetLengthMode (.unknown 0b10)) [[0x88, 0x00]] := by decide +kernel
/-- X1: 0b01000100 becomes 0b01000101. -/
theorem test_setPacketLengthMode : ran (.setPacketLengthMode .variable) (withReg 0x08 0b01000100) =
    okReady .unit [[0x88, 0x00], [0x48, 0b01000101]] := by decide +kernel
theorem test_getChecksumEnabled : ran .getChecksumEnabled afterOpen = okReady (.flag true) [[0x88, 0x00]] := by
  decide +kernel
theorem test_enableChecksum : ran .enableChecksum (withReg 0x08 0x01) =
    okReady .unit [[0x88, 0x00], [0x48, 0x05]] := by decide +kernel
/-- X3: twice the same byte. -/
theorem test_disableChecksum :
    framesIn (after .disableChecksum (after .disableChecksum atReset)).trace =
      [[0x88, 0x00], [0x48, 0x41], [0x88, 0x00], [0x48, 0x41]] := by decide +kernel
theorem test_getDataWhiteningEnabled : ran .getDataWhiteningEnabled afterOpen =
    okReady (.flag false) [[0x88, 0x00]] := by
  decide +kernel
theorem test_enableDataWhitening : ran .enableDataWhitening afterOpen =
    okReady .unit [[0x88, 0x00], [0x48, 0x45]] := by decide +kernel
theorem test_disableDataWhitening : ran .disableDataWhitening atReset =
    okReady .unit [[0x88, 0x00], [0x48, 0x05]] := by decide +kernel
theorem test_getTransceiveMode : ran .getTransceiveMode afterOpen =
    okReady (.transceiveMode (.known .fifo)) [[0x88, 0x00]] := by decide +kernel
theorem test_setTransceiveMode : ran (.setTransceiveMode .asynchronousSerial) afterOpen =
    okReady .unit [[0x88, 0x00], [0x48, 0x35]] := by decide +kernel
theorem test_getManchesterEnabled : ran .getManchesterEnabled afterOpen = okReady (.flag false) [[0x92, 0x00]] := by
  decide +kernel
theorem test_enableManchester : ran .enableManchester afterOpen =
    okReady .unit [[0x92, 0x00], [0x52, 0x3A]] := by decide +kernel
theorem test_disableManchester : ran .disableManchester (withReg 0x12 0x3A) =
    okReady .unit [[0x92, 0x00], [0x52, 0x32]] := by decide +kernel
theorem test_getPAIndex : ran .getPAIndex afterOpen = okReady (.field 1) [[0xA2, 0x00]] := by decide +kernel
theorem test_setPAIndex : ran (.setPAIndex 7) afterOpen = okReady .unit [[0xA2, 0x00], [0x62, 0x17]] := by
  decide +kernel
theorem test_setPAIndex_range : ran (.setPAIndex 8) afterOpen =
    some (.err ⟨.setPAIndex 8, { kind := .paIndex, reg := some 0x22, value := some (.int 8) }⟩, [], .ready) := by
  decide +kernel
theorem test_getPatable : ran .getPatable atReset =
    okReady (.bytes [0xC6, 0, 0, 0, 0, 0, 0, 0]) [0xFE :: List.replicate 8 0] := by decide +kernel
theorem test_getOutputPower : ran .getOutputPower afterOpen =
    okReady (.bytes [0xC6, 0x00]) [0xFE :: List.replicate 8 0, [0xA2, 0x00]] := by decide +kernel
theorem test_setOutputPower : ran (.setOutputPower [0x00, 0xC0]) afterOpen =
    okReady .unit [[0x7E, 0x00, 0xC0], [0xA2, 0x00], [0x62, 0x11]] := by decide +kernel
theorem test_setOutputPower_value : ran (.setOutputPower [0x10, 256]) afterOpen =
    some (.err ⟨.setOutputPower [0x10, 256], { kind := .patableValue, reg := some 0x3E, value := some (.pair 1 256) }⟩,
      [], .ready) := by decide +kernel
theorem test_getCalibrationOnWake : ran .getCalibrationOnWake afterOpen = okReady (.field 1) [[0x98, 0x00]] := by
  decide +kernel
theorem test_setCalibrationOnWake : ran (.setCalibrationOnWake 3) afterOpen =
    okReady .unit [[0x98, 0x00], [0x58, 0x34]] := by decide +kernel

/-! ### Physical units (95_test_vectors.md 2.4) -/

/-- A frequency given as a natural number of hertz. -/
def hz (n : Nat) : Hz := ⟨n, Nat.cast_nonneg n⟩

/-- A symbol rate given as a natural number of baud. -/
def baud (n : Nat) : Baud := ⟨n, Nat.cast_nonneg n⟩

theorem test_hzToWord :
    hzToWord Config.default (hz 433920000) = 0x10B071 ∧ hzToWord Config.default (hz 868000000) = 0x216276 ∧
    hzToWord Config.default (hz 315000000) = 0x0C1D8A ∧
    hzToWord Config.default ⟨203125 / 1024, by norm_num⟩ = 0 ∧
    hzToWord Config.default ⟨609375 / 1024, by norm_num⟩ = 2 := by decide +kernel
theorem test_baudToFp :
    [115051, 9600, 203000, 2479 / 100, 24, 1623414, 1623413].map (baudToFp Config.default) =
      [(34, 12), (131, 8), (0, 13), (0, 0), (240, -1), (0, 16), (255, 15)] := by decide +kernel
theorem test_wordToHz : (wordToHz Config.default 0x10B071).val = 222166953125 / 512 ∧
    (fpToBaud Config.default 34 12).val = 29453125 / 256 ∧ (filterBwHz Config.default 3 3).val = 406250 / 7 := by
  decide +kernel
/-- One hertz below the floor minus the tolerance: a warning, then the write. -/
theorem test_setBaseFrequencyHz_warned :
    (after (.setBaseFrequencyHz (hz 281649999)) atReset).trace =
      [.opStart (.op (.setBaseFrequencyHz (hz 281649999))), .warning (.frequencyBelowTxFloor (hz 281649999)),
       .xfer [0x4D, 0x0A, 0xD5, 0x2B] [0x0F, 0x0F, 0x0F, 0x0F], .statusObserved 0x0F, .opEnd (.ok .unit)] := by
  decide +kernel
theorem test_setBaseFrequencyHz_range : ran (.setBaseFrequencyHz (hz 6655999802)) atReset =
    some (.err ⟨.setBaseFrequencyHz (hz 6655999802),
      { kind := .frequencyRange, reg := some 0x0D, value := some (.rat 6655999802) }⟩, [], .ready) := by
  decide +kernel
theorem test_getBaseFrequencyHz : ran .getBaseFrequencyHz atReset =
    okReady (.hz ⟨102399984375 / 128, by norm_num⟩) [[0xCD, 0, 0, 0]] := by decide +kernel
theorem test_setSymbolRateBaud : ran (.setSymbolRateBaud (baud 9600)) (withReg 0x10 0xFC) =
    okReady .unit [[0x90, 0x00], [0x50, 0xF8, 0x83]] := by decide +kernel
theorem test_setSymbolRateBaud_exponent : ran (.setSymbolRateBaud (baud 24)) atReset =
    some (.err ⟨.setSymbolRateBaud (baud 24),
      { kind := .symbolRateExponent, reg := some 0x10, value := some (.rat 24) }⟩, [], .ready) := by
  decide +kernel
theorem test_getSymbolRateBaud : ran .getSymbolRateBaud atReset =
    okReady (.baud ⟨29453125 / 256, by norm_num⟩) [[0xD0, 0, 0]] := by decide +kernel
theorem test_getFilterBandwidthHz : ran .getFilterBandwidthHz atReset =
    okReady (.hz (hz 203125)) [[0x90, 0x00]] := by decide +kernel

/-! ### Lifecycle and packets (95_test_vectors.md 2.5, 2.6) -/

/-- Program P1. -/
theorem test_openOp : ran .openOp (block .closed (.responder fresh)) =
    okReady .unit [[0x30], [0xF0, 0x00], [0xF1, 0x00], [0x92, 0x00], [0x52, 0x32], [0xA2, 0x00], [0x62, 0x11],
      [0x88, 0x00], [0x48, 0x05], [0x98, 0x00], [0x58, 0x14], [0xF5, 0x00]] ∧
    (after .openOp (block .closed (.responder fresh))).env = .responder opened := by decide +kernel
/-- Program P7: an unsupported version. -/
theorem test_openOp_version : ran .openOp (block .closed (.responder { fresh with version := 0x15 })) =
    some (.err ⟨.openOp,
      { kind := .version, reg := some 0x31, expected := some (.set [0x04, 0x14]), actual := some (.byte 0x15) }⟩,
      [[0x30], [0xF0, 0x00], [0xF1, 0x00]], .closed) := by decide +kernel
theorem test_closeOp : ran .closeOp (block .asyncTx (.responder { opened with regs := [(0x08, 0x35)] })) =
    some (.ok .unit, [[0x36], [0x88, 0x00], [0x48, 0x05]], .closed) := by decide +kernel
theorem test_closeOp_error : ran .closeOp (block .asyncTx (.scripted [[]] [] 0)) =
    some (.err ⟨.closeOp, { kind := .length, header := some 0x36, expected := some (.int 1), actual := some (.int 0) }⟩,
      [[0x36]], .closed) := by decide +kernel
theorem test_getMarcstate : ran .getMarcstate (answering [[0x0F, 0x17]]) =
    okReady (.marcstate 0x17 (.unknown 23)) [[0xF5, 0x00]] := by decide +kernel
/-- X7 (program P2). -/
theorem test_transmit : ran (.transmit [0xAA, 0xBB, 0xCC]) afterOpen =
    okReady .unit [[0x88, 0x00], [0x86, 0x00], [0xF5, 0x00], [0x3B], [0x7F, 0x03, 0xAA, 0xBB, 0xCC], [0x35]] := by
  decide +kernel
/-- X8: the three reads and nothing more. -/
theorem test_transmit_notIdle :
    ran (.transmit [1]) (block .ready (.responder { opened with marc := 0x13 })) =
      some (.err ⟨.transmit [1], { kind := .notIdleTx, reg := some 0x35, actual := some (.byte 0x13) }⟩,
        [[0x88, 0x00], [0x86, 0x00], [0xF5, 0x00]], .ready) := by decide +kernel
theorem test_receive :
    ran (.receive 0) (block .ready (.responder
      { opened with packets := [[0x02, 0x11, 0x22, 0xCC, 0x9E]], gpio := [true] })) =
      okReady (.packet ⟨[0x02, 0x11, 0x22], 0xCC, true, 0x1E⟩) [[0x34], [0xFB, 0x00], [0xFF, 0, 0, 0, 0, 0]] := by
  decide +kernel
/-- The gpio list is exhausted: a timeout. -/
theorem test_receive_timeout : ran (.receive 0) afterOpen = okReady .noPacket [[0x34], [0x36]] := by decide +kernel
theorem test_asyncTxBegin : ran .asyncTxBegin afterOpen =
    some (.ok .unit, [[0x88, 0x00], [0x48, 0x35], [0x35]], .asyncTx) := by decide +kernel
theorem test_asyncTxEnd : ran .asyncTxEnd (block .asyncTx (.responder { opened with regs := [(0x08, 0x35)] })) =
    okReady .unit [[0x36], [0x88, 0x00], [0x48, 0x05]] := by decide +kernel
theorem test_rssiDbm : [0, 1, 127, 128, 204, 255].map rssiDbm = [-74, -147 / 2, -21 / 2, -138, -100, -149 / 2] := by
  decide +kernel
/-- RR answers a form the block never issues with status bytes (log entry 10), a status read it has no value for with 0. -/
theorem test_responder_forms :
    fresh.answer [0xEC, 0, 0, 0, 0] = (List.replicate 5 0x0F, fresh) ∧
    fresh.answer (0xFE :: List.replicate 9 0) = (List.replicate 10 0x0F, fresh) ∧
    fresh.answer [0x88, 0, 0] = (List.replicate 3 0x0F, fresh) ∧ fresh.answer [0xF4, 0] = ([0x0F, 0x00], fresh) := by
  decide
theorem test_parsePacket : parsePacket [0x05, 0xAA, 0xBB, 0xCC, 0xDD, 0xEE, 0x7F, 0x40] =
    ⟨[0x05, 0xAA, 0xBB, 0xCC, 0xDD, 0xEE], 0x7F, false, 0x40⟩ := by decide

/-! ### Steps -/

/-- A step runs the call placed where the next one is fetched. -/
theorem test_step : step (atReset.withFetchWord 8 0xF1) =
    .next { after .rdsVersion (atReset.withFetchWord 8 0xF1) with pc := 1 } := rfl
/-- The event sequence of `SetPacketLength(4)` (95_test_vectors.md 2.7). -/
theorem test_events : (after (.setPacketLength 4) atReset).trace =
    [.opStart (.op (.setPacketLength 4)), .xfer [0x46, 0x04] [0x0F, 0x0F], .statusObserved 0x0F, .opEnd (.ok .unit)] := by
  decide +kernel
/-- The status byte 0x9A: not ready, RX, ten bytes (30_encoding.md R85, R86). -/
theorem test_statusByte : chipNotReady 0x9A = true ∧ chipState 0x9A = .rx ∧ fifoBytesAvailable 0x9A = 10 := by decide

/-! ### Witnesses: concrete states and operands that meet each statement's hypotheses, one per clause -/

/-- The outside world gives the answers of `ix`, so a completion or failure statement says something of this state. -/
def gives (i : Instr) (s : State) (ix : List Interaction) : Bool :=
  (interact s.cfg.echoPolicy s.env (s.trace ++ [.opStart (.op i)]) ix).isSome

/-- READY, with the responses of `ix` scripted. -/
def scripted (l : Life) (ix : List Interaction) : State :=
  block l (.scripted (ix.filterMap fun | .spi _ rx => some rx | _ => none)
    (ix.filterMap fun | .gpio _ r => some r | _ => none) 0)

-- Encoding
theorem witness_DecodeEncodeAgree :
    (Instr.wrb 0x2E [0xFF]).wf = true ∧ encode (.wrb 0x2E [0xFF]) = some [0x6E, 0xFF] ∧
    (Instr.stb 0x3D).wf = true ∧ encode (.stb 0x3D) = some [0x3D] ∧ Instr.wf .resetOp = true ∧
    encode .resetOp = some [0x30] ∧ (∀ a, Instr.rd1 0x00 ≠ .rds a) ∧ (∀ a, Instr.rd1 0x00 ≠ .stb a) := by
  refine ⟨by decide, by decide, by decide, by decide, by decide, by decide, ?_, ?_⟩ <;> intro a <;> simp
theorem witness_EncodeDecodeAgree :
    decode [0xAE, 0x55] = .ok (.rd1 0x2E) ∧ decode [0x6E, 0xFF] = .ok (.wrb 0x2E [0xFF]) ∧
    (0x6E : Byte).getLsbD 7 = false := by decide
theorem witness_FormsOutsideR89Refused :
    clauseOfR90 .readSingle 0x30 1 ∧ clauseOfR90 .readSingle 0x2F 1 ∧ clauseOfR90 .writeSingle 0x37 0 ∧
    clauseOfR90 .writeBurst 0x3D 1 ∧ clauseOfR90 .readBurst 0x2F 1 ∧ clauseOfR90 .readBurst 0x2E 2 ∧
    clauseOfR90 .writeBurst 0x3E 9 ∧ clauseOfR90 .writeBurst 0x3F 0 ∧ clauseOfR90 .writeSingle 0x36 1 ∧
    clauseOfR90 .readBurst 0x30 2 ∧ atReset.life = .ready ∧
    ¬rowOfR89 (headerMode 0x37) (headerAddr 0x37).toNat 0 := by
  refine ⟨?_, ?_, ?_, ?_, ?_, ?_, ?_, ?_, ?_, ?_, rfl, ?_⟩
  case refine_11 => simp [rowOfR89, headerMode, headerAddr]
  all_goals simp [clauseOfR90]
theorem witness_IllegalOperandsRefused :
    atReset.life = .ready ∧ encode (.rdbPatable 9) = some (0xFE :: List.replicate 9 0) ∧
    ¬rowOfR89 (headerMode 0xFE) (headerAddr 0xFE).toNat 9 :=
  ⟨rfl, by decide, by simp [rowOfR89, headerMode, headerAddr]⟩

-- Steps and the envelope
/-- READY with a program whose next call is the second: an operation, then a raw frame that is none. -/
def twoCalls (pc : Nat) : State := { atReset with program := [.op .getMarcstate, .raw 0x37 []], pc := pc }

theorem witness_StepRunsDecodedCall :
    (twoCalls 0).program[(twoCalls 0).pc]? = some (.op .getMarcstate) ∧
    decodeCall (.op .getMarcstate) = .ok .getMarcstate ∧
    exec .getMarcstate (twoCalls 0) = .next (after .getMarcstate (twoCalls 0)) ∧
    (twoCalls 1).program[(twoCalls 1).pc]? = some (.raw 0x37 []) ∧
    decode [0x37] = .error .singleWriteNoStrobe ∧ (twoCalls 2).program[(twoCalls 2).pc]? = none := by
  refine ⟨?_, ?_, rfl, ?_, ?_, ?_⟩ <;> decide
theorem witness_RefusalMarkIsSticky :
    ∃ t, runCall (.raw 0x37 []) atReset = .next t ∧ t.trace.getLast? = some (.opEnd (.refused (.illegalForm 0x37 0))) :=
  ⟨_, rfl, by decide⟩
theorem witness_LifecycleTable :
    ¬acceptedByR25 .asyncTx (.receive 0) ∧ ¬acceptedByR25 .ready .openOp ∧ ¬acceptedByR25 .closed .resetOp ∧
    ¬acceptedByR25 .faulted .getMarcstate ∧ acceptedByR25 atReset.life .asyncTxBegin ∧
    exec .asyncTxBegin atReset = .next (after .asyncTxBegin atReset) ∧
    (after .asyncTxBegin atReset).trace.getLast? = some (.opEnd (.ok .unit)) ∧
    exec .closeOp atReset = .next (after .closeOp atReset) := by
  refine ⟨?_, ?_, ?_, ?_, ?_, rfl, by decide +kernel, rfl⟩ <;> simp [acceptedByR25, atReset, block]

-- Errors
/-- A read of PKTCTRL0 that answers one byte too few. -/
def shortRead : State := answering [[0x0F]]

theorem witness_TakingAnError :
    exec .getPacketLength shortRead = .next (after .getPacketLength shortRead) ∧
    ∃ e, Event.errorRaised e ∈ newEvents shortRead (after .getPacketLength shortRead) :=
  ⟨rfl, ⟨.getPacketLength, { kind := .length, header := some 0x86, expected := some (.int 2), actual := some (.int 1) }⟩,
    by decide +kernel⟩
theorem witness_WrongLengthEndsOperation :
    exec .getPacketLength shortRead = .next (after .getPacketLength shortRead) ∧
    Event.xfer [0x86, 0x00] [0x0F] ∈ newEvents shortRead (after .getPacketLength shortRead) ∧
    ([0x0F] : Bytes).length ≠ ([0x86, 0x00] : Bytes).length := ⟨rfl, by decide +kernel, by decide⟩
theorem witness_TransactionLengthError :
    shortRead.life = .ready ∧ encode (.rd1 0x2E) = some [0xAE, 0x00] ∧
    rowOfR89 (headerMode 0xAE) (headerAddr 0xAE).toNat 1 ∧
    shortRead.env.answerSpi (shortRead.trace ++ [.opStart (.op (.rd1 0x2E))]) [0xAE, 0x00] =
      ([0x0F], .scripted [] [] 0) ∧ ([0x0F] : Bytes).length ≠ 1 + 1 := by
  exact ⟨rfl, by decide, by simp [rowOfR89, headerMode, headerAddr], rfl, by decide⟩

/-- A write of the sync word whose last echo byte differs from the others. -/
def oddEcho (p : EchoPolicy) : State := policed p [[0x0F, 0x0F, 0x1F]]

theorem witness_EchoPolicies (p : EchoPolicy) :
    (oddEcho p).cfg.echoPolicy = p ∧
    exec (.setSyncWord [1, 2]) (oddEcho p) = .next (after (.setSyncWord [1, 2]) (oddEcho p)) ∧
    Event.xfer [0x44, 1, 2] [0x0F, 0x0F, 0x1F] ∈ newEvents (oddEcho p) (after (.setSyncWord [1, 2]) (oddEcho p)) ∧
    headerMode (byteAt [0x44, 1, 2] 0) = .writeBurst ∧ (∀ j < 1, ([0x0F, 0x1F] : Bytes).getD j 0 = 0x0F) ∧
    ([0x0F, 0x1F] : Bytes).getD 1 0 ≠ 0x0F := by
  cases p <;> refine ⟨rfl, rfl, ?_, ?_, ?_, ?_⟩ <;> decide +kernel
theorem witness_EchoPolicies_error :
    ∃ e, Event.errorRaised e ∈
      newEvents (oddEcho .match0F) (after (.setSyncWord [1, 2]) (oddEcho .match0F)) ∧ e.info.kind = .echo :=
  ⟨⟨.setSyncWord [1, 2], { kind := .echo, header := some 0x44, index := some 2,
                           expected := some (.byte 0x0F), actual := some (.byte 0x1F) }⟩, by decide +kernel, rfl⟩
/-- Each range just outside its ends. -/
theorem witness_ArgumentErrors :
    (([.setFrequencyWord (-1), .setFrequencyWord 0x1000000, .setSymbolRateFP (-1) 0, .setSymbolRateFP 256 0,
       .setSymbolRateFP 255 16, .setSymbolRateFP 0 (-1), .setFilterBandwidthFP 4 0, .setFilterBandwidthFP 3 4,
       .setFilterBandwidthFP (-1) 0, .setSyncWord [], .setSyncWord [1, 2, 3], .setPreambleLength 5,
       .setPacketLength 0, .setPacketLength 256, .setPAIndex 8, .setPAIndex (-1), .setCalibrationOnWake 4,
       .setOutputPower [], .setOutputPower (List.replicate 9 0), .setOutputPower [255, 256], .setOutputPower [-1],
       .setBaseFrequencyHz (hz 6655999802), .setSymbolRateBaud (baud 0), .setSymbolRateBaud (baud 24),
       .setSymbolRateBaud (baud 1623414), .transmit []] : List Instr).all
      fun i => (argumentError atReset.cfg i).isSome) = true ∧ atReset.life = .ready := by decide +kernel
/-- One error before any transfer, one after the two reads of `Transmit`. -/
theorem witness_ConfigurationErrorsNeverWrite :
    (∃ e, Event.errorRaised e ∈ newEvents atReset (after (.setPacketLength 0) atReset) ∧
      kindClass e.info.kind = .configurationError ∧ e.info.kind ≠ .payloadTooLong) ∧
    (∃ e, Event.errorRaised e ∈ newEvents (withReg 0x06 0x00) (after (.transmit [1]) (withReg 0x06 0x00)) ∧
      e.info.kind = .payloadTooLong) :=
  ⟨⟨⟨.setPacketLength 0, { kind := .packetLength, reg := some 0x06, value := some (.int 0) }⟩, by decide +kernel⟩,
   ⟨⟨.transmit [1], { kind := .payloadTooLong, reg := some 0x06, value := some (.pair 1 0) }⟩, by decide +kernel⟩⟩

-- Rules over every operation
theorem witness_OnlyListedFormsIssued :
    runCall (.raw 0xC0 (List.replicate 47 0)) atReset = .next (after (.rdb 0x00 47) atReset) ∧
    framesIn (newEvents atReset (after (.rdb 0x00 47) atReset)) = [0xC0 :: List.replicate 47 0] :=
  ⟨rfl, by decide +kernel⟩
/-- One operation that observes a status byte, one that observes none. -/
theorem witness_LastStatusIsTelemetry :
    statusesIn (newEvents atReset (after .stbSnop atReset)) = [0x0F] ∧
    statusesIn (newEvents atReset (after .closeOp atReset)) = [] := by decide +kernel
theorem witness_OnlyReceiveWaits :
    exec (.receive 7) atReset = .next (after (.receive 7) atReset) ∧
    Event.gpioWait 7 false ∈ newEvents atReset (after (.receive 7) atReset) := ⟨rfl, by decide +kernel⟩
theorem witness_GettersOnlyRead :
    isGetter .getPacketLength = true ∧
    exec .getPacketLength shortRead = .next (after .getPacketLength shortRead) ∧
    framesIn (newEvents shortRead (after .getPacketLength shortRead)) = [[0x86, 0x00]] :=
  ⟨rfl, rfl, by decide +kernel⟩

-- Invariants
/-- READY over RR, about to clear a bit of PKTCTRL0, with a status byte already logged. -/
def running : State :=
  { atReset with lastStatus := some 0x0F, trace := [.statusObserved 0x0F], program := [.op .disableChecksum] }

theorem witness_StepKeepsLogs :
    LogsAgree running ∧ step running = .next { after .disableChecksum running with pc := 1 } :=
  ⟨⟨rfl, rfl, rfl⟩, rfl⟩
theorem witness_StepKeepsMemoriesCanonical :
    EnvCanonical running ∧ step running = .next { after .disableChecksum running with pc := 1 } := ⟨rfl, rfl⟩

-- Completion: transactions
theorem witness_StrobesComplete :
    (Instr.stbSpwd, (0x39 : Byte)) ∈ strobeHeaders ∧ (answering [[0x0F]]).life = .ready ∧
    gives .stbSpwd (answering [[0x0F]]) [.spi [0x39] [0x0F]] = true ∧
    gives (.stb 0x30) (answering [[0x0F]]) [.spi [0x30] [0x0F]] = true ∧
    gives (.stb 0x3D) (answering [[0x0F]]) [.spi [0x3D] [0x0F]] = true := by decide +kernel
theorem witness_StatusReadsComplete :
    (Instr.rdsRcctrl0Status, (0xFD : Byte)) ∈ statusHeaders ∧ (answering [[0x0F, 0x12]]).life = .ready ∧
    gives .rdsRcctrl0Status (answering [[0x0F, 0x12]]) [.spi [0xFD, 0x00] [0x0F, 0x12]] = true ∧
    gives (.rds 0x37) (answering [[0x0F, 0x12]]) [.spi [0xF7, 0x00] [0x0F, 0x12]] = true := by decide +kernel
theorem witness_DataReadsComplete :
    gives (.rd1 0x2E) (answering [[0x0F, 0x0B]]) [.spi [0xAE, 0x00] [0x0F, 0x0B]] = true ∧
    gives (.rdb 0x2D 2) (answering [[0x0F, 1, 2]]) [.spi [0xED, 0, 0] [0x0F, 1, 2]] = true ∧
    gives (.rdbPatable 1) (answering [[0x0F, 1]]) [.spi [0xFE, 0] [0x0F, 1]] = true ∧
    gives (.rdbRxFifo 1) (answering [[0x0F, 1]]) [.spi [0xFF, 0] [0x0F, 1]] = true := by decide +kernel
/-- Under each policy: an echo that ADVISORY warns about, one that the checking policies accept. -/
theorem witness_BurstWritesComplete :
    gives (.wrb 0x2E [7]) (answering [[0x0F, 0x1F]]) [.spi [0x6E, 7] [0x0F, 0x1F]] = true ∧
    gives (.wrbPatable [7]) (policed .matchStatus [[0x1F, 0x1F]]) [.spi [0x7E, 7] [0x1F, 0x1F]] = true ∧
    gives (.wrbTxFifo [7]) (policed .match0F [[0x1F, 0x0F]]) [.spi [0x7F, 7] [0x1F, 0x0F]] = true := by decide +kernel

-- Completion: accessors
theorem witness_RegisterGettersComplete :
    (([.getFilterBandwidthFP, .getModulationFormat, .getSyncMode, .getPreambleLength, .getPacketLength,
       .getPacketLengthMode, .getChecksumEnabled, .getDataWhiteningEnabled, .getTransceiveMode, .getManchesterEnabled,
       .getPAIndex, .getCalibrationOnWake, .getMarcstate] : List Instr).all fun i =>
      match getterOf i with
      | some (h, _) => gives i (answering [[0x0F, 0xFF]]) [.spi [h, 0x00] [0x0F, 0xFF]]
      | none => false) = true := by decide +kernel
theorem witness_BurstGettersComplete :
    gives .getFrequencyWord (answering [[0x0F, 1, 2, 3]]) [.spi [0xCD, 0, 0, 0] [0x0F, 1, 2, 3]] = true ∧
    gives .getSymbolRateFP (answering [[0x0F, 1, 2]]) [.spi [0xD0, 0, 0] [0x0F, 1, 2]] = true ∧
    gives .getSyncWord (answering [[0x0F, 1, 2]]) [.spi [0xC4, 0, 0] [0x0F, 1, 2]] = true ∧
    gives .getPatable atReset [.spi (0xFE :: List.replicate 8 0) [0x0F, 0xC6, 0, 0, 0, 0, 0, 0, 0]] = true ∧
    gives .getOutputPower atReset
      [.spi (0xFE :: List.replicate 8 0) [0x0F, 0xC6, 0, 0, 0, 0, 0, 0, 0], .spi [0xA2, 0x00] [0x0F, 0x10]] = true := by
  decide +kernel
theorem witness_PhysicalGettersComplete :
    gives .getBaseFrequencyHz atReset [.spi [0xCD, 0, 0, 0] [0x0F, 0x1E, 0xC4, 0xEC]] = true ∧
    (102399984375 / 128 : Rat) = ((0x1E * 65536 + 0xC4 * 256 + 0xEC : Nat) : Rat) * atReset.cfg.crystalHz / 2 ^ 16 ∧
    gives .getSymbolRateBaud atReset [.spi [0xD0, 0, 0] [0x0F, 0x8C, 0x22]] = true ∧
    (29453125 / 256 : Rat) = ((256 + 0x22 : Nat) : Rat) * 2 ^ (0x8C % 16) * atReset.cfg.crystalHz / 2 ^ 28 ∧
    gives .getFilterBandwidthHz atReset [.spi [0x90, 0] [0x0F, 0x8C]] = true ∧
    (203125 : Rat) = (atReset.cfg.crystalHz : Rat) / (8 * (4 + (0x8C / 16 % 4 : Nat)) * 2 ^ (0x8C / 64)) := by
  decide +kernel
/-- Every read-modify-write setter, numeric operands at an end of their range. -/
theorem witness_FieldSettersComplete :
    (([.setFilterBandwidthFP 3 0, .setModulationFormat .msk, .setSyncMode .transmit32Match30Bits (some false),
       .setPreambleLength 24, .setPacketLengthMode .fixed, .enableChecksum, .disableChecksum, .enableDataWhitening,
       .disableDataWhitening, .setTransceiveMode .randomTransmission, .enableManchester, .disableManchester,
       .setPAIndex 7, .setCalibrationOnWake 3] : List Instr).all fun i =>
      match setterOf i with
      | some (a, f) =>
          gives i (answering [[0x0F, 0x5A], [0x0F, 0x0F]])
            [.spi [a ||| 0x80, 0x00] [0x0F, 0x5A], .spi [a ||| 0x40, f 0x5A] [0x0F, 0x0F]]
      | none => false) = true := by decide +kernel
theorem witness_WholeRegisterSettersComplete :
    wholeWriteOf (.setFrequencyWord 0xFFFFFF) = some [0x4D, 0xFF, 0xFF, 0xFF] ∧
    gives (.setFrequencyWord 0xFFFFFF) atReset [.spi [0x4D, 0xFF, 0xFF, 0xFF] [0x0F, 0x0F, 0x0F, 0x0F]] = true ∧
    wholeWriteOf (.setSyncWord [1, 2]) = some [0x44, 1, 2] ∧
    gives (.setSyncWord [1, 2]) atReset [.spi [0x44, 1, 2] [0x0F, 0x0F, 0x0F]] = true ∧
    wholeWriteOf (.setPacketLength 1) = some [0x46, 1] ∧
    gives (.setPacketLength 1) atReset [.spi [0x46, 1] [0x0F, 0x0F]] = true := by decide +kernel
theorem witness_SymbolRateSettersComplete :
    gives (.setSymbolRateFP 255 15) atReset
      [.spi [0x90, 0x00] [0x0F, 0x8C], .spi [0x50, (0x8C &&& 0xF0) ||| 0x0F, 0xFF] [0x0F, 0x0F, 0x0F]] = true ∧
    0 < (baud 9600).val ∧ baudToFp atReset.cfg (baud 9600).val = (131, 8) ∧
    gives (.setSymbolRateBaud (baud 9600)) atReset
      [.spi [0x90, 0x00] [0x0F, 0x8C], .spi [0x50, 0x88, 0x83] [0x0F, 0x0F, 0x0F]] = true := by
  decide +kernel
/-- At the floor minus the tolerance there is no warning; just below it there is one. -/
theorem witness_SetBaseFrequencyCompletes :
    hzToWord atReset.cfg (hz 281650000) = 0x0AD52B ∧
    gives (.setBaseFrequencyHz (hz 281650000)) atReset [.spi [0x4D, 0x0A, 0xD5, 0x2B] [0x0F, 0x0F, 0x0F, 0x0F]] = true ∧
    hzToWord atReset.cfg (hz 281649999) = 0x0AD52B ∧
    gives (.setBaseFrequencyHz (hz 281649999)) atReset
      [.note (.frequencyBelowTxFloor (hz 281649999)), .spi [0x4D, 0x0A, 0xD5, 0x2B] [0x0F, 0x0F, 0x0F, 0x0F]] = true := by
  decide +kernel
theorem witness_SetOutputPowerCompletes :
    gives (.setOutputPower [0, 255]) atReset
      [.spi [0x7E, 0x00, 0xFF] [0x0F, 0x0F, 0x0F], .spi [0xA2, 0x00] [0x0F, 0x10], .spi [0x62, 0x11] [0x0F, 0x0F]] =
      true := by decide +kernel

-- Completion: lifecycle and packets
theorem witness_OpenCompletes :
    gives .openOp (block .closed (.responder fresh))
      (openIdentity 0x0F 0x0F 0x00 0x0F 0x14 ++
        openDefaults 0x0F 0x02 0x0F 0x10 0x0F 0x45 0x0F 0x04 [0x0F, 0x0F] [0x0F, 0x0F] [0x0F, 0x0F] [0x0F, 0x0F] ++
        [.spi [0xF5, 0x00] [0x0F, 0x01]]) = true ∧
    (0x00 : Byte) = Config.default.supportedPartnum ∧ (0x14 : Byte) ∈ Config.default.versionWhitelist := by
  decide +kernel
theorem witness_OpenErrorsLeaveClosed :
    gives .openOp (block .closed (.scripted [[0x0F], [0x0F, 0x01]] [] 0))
      [.spi [0x30] [0x0F], .spi [0xF0, 0x00] [0x0F, 0x01]] = true ∧
    gives .openOp (block .closed (.responder { fresh with version := 0x15 }))
      (openIdentity 0x0F 0x0F 0x00 0x0F 0x15) = true ∧
    (0x15 : Byte) ∉ Config.default.versionWhitelist := by decide +kernel
theorem witness_OpenErrorsLeaveClosed_notIdle :
    gives .openOp (block .closed (.scripted
      [[1], [1, 0], [1, 0x04], [1, 2], [1, 1], [1, 0x10], [1, 1], [1, 0x45], [1, 1], [1, 4], [1, 1], [1, 0x0D]] [] 0))
      (openIdentity 1 1 0x00 1 0x04 ++ openDefaults 1 2 1 0x10 1 0x45 1 4 [1, 1] [1, 1] [1, 1] [1, 1] ++
        [.spi [0xF5, 0x00] [1, 0x0D]]) = true := by decide +kernel
theorem witness_CloseCompletes :
    (block .faulted (.responder fresh)).life ≠ .asyncTx ∧ gives .closeOp (block .faulted (.responder fresh)) [] = true ∧
    gives .closeOp (block .asyncTx (.responder fresh))
      [.spi [0x36] [0x0F], .spi [0x88, 0x00] [0x0F, 0x45], .spi [0x48, 0x45] [0x0F, 0x0F]] = true := by decide +kernel
/-- VARIABLE with L = max; FIXED. -/
theorem witness_TransmitCompletes :
    gives (.transmit [0xAA]) (answering [[1, 0x05], [1, 0x01], [1, 0xE1], [1], [1, 1, 1], [1]])
      [.spi [0x88, 0x00] [1, 0x05], .spi [0x86, 0x00] [1, 0x01], .spi [0xF5, 0x00] [1, 0xE1], .spi [0x3B] [1],
       .spi [0x7F, 0x01, 0xAA] [1, 1, 1], .spi [0x35] [1]] = true ∧
    gives (.transmit [0xAA]) (answering [[1, 0x04], [1, 0x01], [1, 0x01], [1], [1, 1], [1]])
      [.spi [0x88, 0x00] [1, 0x04], .spi [0x86, 0x00] [1, 0x01], .spi [0xF5, 0x00] [1, 0x01], .spi [0x3B] [1],
       .spi [0x7F, 0xAA] [1, 1], .spi [0x35] [1]] = true := by decide +kernel
/-- One too long, one mismatch, both unknown modes, and a chip in TX. -/
theorem witness_TransmitFails :
    gives (.transmit [1, 2]) (answering [[1, 0x05], [1, 1]]) [.spi [0x88, 0x00] [1, 0x05], .spi [0x86, 0x00] [1, 1]] = true ∧
    gives (.transmit [1, 2]) (answering [[1, 0x04], [1, 1]]) [.spi [0x88, 0x00] [1, 0x04], .spi [0x86, 0x00] [1, 1]] = true ∧
    gives (.transmit [1]) (answering [[1, 0x06], [1, 1]]) [.spi [0x88, 0x00] [1, 0x06], .spi [0x86, 0x00] [1, 1]] = true ∧
    gives (.transmit [1]) (answering [[1, 0x07], [1, 1]]) [.spi [0x88, 0x00] [1, 0x07], .spi [0x86, 0x00] [1, 1]] = true ∧
    gives (.transmit [1]) (answering [[1, 0x05], [1, 1], [1, 0x13]])
      [.spi [0x88, 0x00] [1, 0x05], .spi [0x86, 0x00] [1, 1], .spi [0xF5, 0x00] [1, 0x13]] = true := by decide +kernel
/-- The counts 0 (as 0x80), 1, 2 and 127 (as 0xFF). -/
theorem witness_ReceiveOutcomes :
    (([[.spi [0x34] [1], .gpio 5 false, .spi [0x36] [1]],
       [.spi [0x34] [1], .gpio 5 true, .spi [0xFB, 0x00] [1, 0x80]],
       [.spi [0x34] [1], .gpio 5 true, .spi [0xFB, 0x00] [1, 2], .spi [0xFF, 0, 0] [1, 0x80, 0x2D]],
       [.spi [0x34] [1], .gpio 5 true, .spi [0xFB, 0x00] [1, 0xFF],
        .spi (0xFF :: List.replicate 127 0) (1 :: (List.replicate 125 7 ++ [0xCC, 0x9E]))],
       [.spi [0x34] [1], .gpio 5 true, .spi [0xFB, 0x00] [1, 1]]] : List (List Interaction)).all
      fun ix => gives (.receive 5) (scripted .ready ix) ix) = true := by decide +kernel
theorem witness_AsyncTxCompletes :
    gives .asyncTxBegin afterOpen
      [.spi [0x88, 0x00] [0x0F, 0x05], .spi [0x48, 0x35] [0x0F, 0x0F], .spi [0x35] [0x0F]] = true ∧
    gives .asyncTxEnd (block .asyncTx (.responder fresh))
      [.spi [0x36] [0x0F], .spi [0x88, 0x00] [0x0F, 0x45], .spi [0x48, 0x45] [0x0F, 0x0F]] = true := by decide +kernel

-- Fields, conversions, responder
theorem witness_MergeLaws : drateM.lo ≤ drateM.hi ∧ drateM.hi ≤ 7 ∧ 255 < 2 ^ (drateM.hi - drateM.lo + 1) ∧
    0 < whiteData.lo ∧ 1 < 2 ^ (whiteData.hi - whiteData.lo + 1) := by decide
theorem witness_RoundingAndLogarithm : |((roundHalfEven (5 / 2) : Int) : Rat) - 5 / 2| = 1 / 2 ∧ (0 : Rat) < 1 / 3 := by
  decide +kernel
theorem witness_FrequencyRoundTrips :
    hzToWord Config.default (hz 433920000) = ((0x10B071 : Word24).toNat : Int) := by
  decide +kernel
theorem witness_SymbolRateConversion :
    (12 : Int) = flog2 (203000 / Config.default.crystalHz) + 20 ∧
    (256 : Int) = roundHalfEven (203000 * 2 ^ 28 / Config.default.crystalHz / 2 ^ 12 - 256) := by
  decide +kernel
theorem witness_ResponderWrites :
    Memory.wf .config opened.regs = true ∧ Memory.wf .patable opened.patable = true ∧
    (0x2D : Addr6).toNat + ([1, 2] : Bytes).length - 1 ≤ 0x2E := by decide
theorem witness_ResponderReads : (0x2D : Addr6).toNat + 2 - 1 ≤ 0x2E ∧ fresh.txq.length ≤ 255 := by decide
theorem witness_ResponderStrobes :
    fresh.packets = [] ∧ fresh.gpio = [] ∧ ({ fresh with packets := [[1, 2]] } : Responder).packets = [1, 2] :: [] ∧
    ({ fresh with gpio := [true] } : Responder).gpio = true :: [] := by decide
/-- SHORT_RX under RR, with the policy MATCH_0F. -/
def oneByte : State :=
  { block .ready (.responder { fresh with packets := [[0x07]], gpio := [true] }) with
    cfg := { Config.default with echoPolicy := .match0F } }

theorem witness_ResponderKeepsProtocol :
    oneByte.env = .responder { fresh with packets := [[0x07]], gpio := [true] } ∧ fresh.status = 0x0F ∧
    exec (.receive 0) oneByte = .next (after (.receive 0) oneByte) ∧
    Event.errorRaised ⟨.receive 0, { kind := .shortRx, reg := some 0x3B, actual := some (.int 1) }⟩ ∈
      newEvents oneByte (after (.receive 0) oneByte) := ⟨rfl, rfl, rfl, by decide +kernel⟩
theorem witness_SetterThenGetter :
    atReset.life = .ready ∧ atReset.env = .responder fresh ∧
    readBack atReset.cfg (memRead .config fresh.regs 0x12) (.setPreambleLength 24) =
      some (.getPreambleLength, .preambleLength 24) ∧
    Memory.wf .config fresh.regs = true ∧ Memory.wf .patable fresh.patable = true ∧
    exec (.setPreambleLength 24) atReset = .next (after (.setPreambleLength 24) atReset) :=
  ⟨rfl, rfl, by decide +kernel, rfl, rfl, rfl⟩
/-- The setters whose value comes back through more than a field: all have a row, with MDMCFG2 at its reset value. -/
theorem witness_SetterThenGetter_rows :
    readBack atReset.cfg 0x02 (.setOutputPower [0, 255]) = some (.getOutputPower, .bytes [0x00, 0xFF]) ∧
    readBack atReset.cfg 0x06 (.setSyncMode .transmit32Match30Bits none) =
      some (.getSyncMode, .syncMode (.known .transmit32Match30Bits) true) ∧
    readBack atReset.cfg 0x02 (.setBaseFrequencyHz (hz 433920000)) =
      some (.getBaseFrequencyHz, .hz ⟨222166953125 / 512, by norm_num⟩) ∧
    readBack atReset.cfg 0x02 (.setSymbolRateBaud (baud 203000)) = some (.getSymbolRateBaud, .baud (baud 203125)) := by
  decide +kernel

end Sys2Proof.Tests
end

section
/-! SUPPORT. Rounding and the base-2 logarithm (00_scope.md R11), and the proof of RoundingAndLogarithm. -/

namespace Sys2Proof.Machine

/-- `round` rounds down at most a half and up at most a half (00_scope.md R11). -/
theorem roundHalfEven_cases (q : Rat) :
    (q - q.floor ≤ 1 / 2 ∧ roundHalfEven q = q.floor) ∨ (1 / 2 ≤ q - q.floor ∧ roundHalfEven q = q.floor + 1) := by
  simp only [roundHalfEven]
  split_ifs with hlow hhigh heven
  · exact .inl ⟨hlow.le, rfl⟩
  · exact .inr ⟨hhigh.le, rfl⟩
  · exact .inl ⟨not_lt.1 hhigh, rfl⟩
  · exact .inr ⟨not_lt.1 hlow, rfl⟩

theorem abs_roundHalfEven_sub_le (q : Rat) : |(roundHalfEven q : Rat) - q| ≤ 1 / 2 := by
  have hfloor : (q.floor : Rat) ≤ q := Rat.floor_le q
  have hceil : q - 1 < q.floor := Rat.lt_floor
  rcases roundHalfEven_cases q with ⟨hr, h⟩ | ⟨hr, h⟩
  · rw [h, abs_of_nonpos] <;> linarith
  · rw [h, Int.cast_add, Int.cast_one, abs_of_nonneg] <;> linarith

/-- Between two integers `round` takes the even one (00_scope.md R11). -/
theorem two_dvd_roundHalfEven {q : Rat} (hhalf : q - q.floor = 1 / 2) : 2 ∣ roundHalfEven q := by
  simp only [roundHalfEven, hhalf, lt_irrefl, if_false]
  split_ifs <;> omega

/-- A distance of a half is a tie: the fractional part is a half. -/
theorem sub_floor_of_abs_roundHalfEven {q : Rat} (htie : |(roundHalfEven q : Rat) - q| = 1 / 2) :
    q - q.floor = 1 / 2 := by
  have hfloor : (q.floor : Rat) ≤ q := Rat.floor_le q
  have hceil : q - 1 < q.floor := Rat.lt_floor
  rcases roundHalfEven_cases q with ⟨hr, h⟩ | ⟨hr, h⟩
  · rw [h, abs_of_nonpos] at htie <;> linarith
  · rw [h, Int.cast_add, Int.cast_one, abs_of_nonneg] at htie <;> linarith

/-- The difference of the bit lengths of numerator and denominator: `flog2`'s first candidate. -/
def flog2Guess (q : Rat) : Int := (Nat.log2 q.num.toNat : Int) - (Nat.log2 q.den : Int)

theorem flog2_eq (q : Rat) : flog2 q = if (2 : Rat) ^ flog2Guess q ≤ q then flog2Guess q else flog2Guess q - 1 := by
  rw [← pow2_eq_zpow]; rfl

/-- A positive natural number lies between the powers of two of its bit length. -/
theorem zpow_log2_bounds {n : Nat} (hn : n ≠ 0) :
    (2 : Rat) ^ (n.log2 : Int) ≤ n ∧ (n : Rat) < 2 ^ ((n.log2 : Int) + 1) :=
  ⟨by exact_mod_cast Nat.log2_self_le hn, by exact_mod_cast Nat.lt_log2_self (n := n)⟩

/-- The first candidate is at most one too large and never too small. -/
theorem flog2Guess_bounds {q : Rat} (hq : 0 < q) :
    (2 : Rat) ^ (flog2Guess q - 1) ≤ q ∧ q < (2 : Rat) ^ (flog2Guess q + 1) := by
  have hnum : 0 < q.num := Rat.num_pos.2 hq
  have hcast : (q.num.toNat : Rat) = q.num := by exact_mod_cast Int.toNat_of_nonneg hnum.le
  have hden : (0 : Rat) < q.den := by exact_mod_cast q.den_pos
  have hprod : q * q.den = q.num.toNat := by rw [hcast, Rat.mul_den_eq_num]
  obtain ⟨numLow, numHigh⟩ := zpow_log2_bounds (n := q.num.toNat) (by omega)
  obtain ⟨denLow, denHigh⟩ := zpow_log2_bounds q.den_ne_zero
  constructor
  · refine le_of_mul_le_mul_right ?_ hden
    calc (2 : Rat) ^ (flog2Guess q - 1) * q.den
        ≤ 2 ^ (flog2Guess q - 1) * 2 ^ ((q.den.log2 : Int) + 1) := by gcongr
      _ = 2 ^ (q.num.toNat.log2 : Int) := by
          rw [← zpow_add₀ two_ne_zero]; congr 1; unfold flog2Guess; omega
      _ ≤ q * q.den := hprod ▸ numLow
  · refine lt_of_mul_lt_mul_right ?_ hden.le
    calc q * q.den
        < (2 : Rat) ^ ((q.num.toNat.log2 : Int) + 1) := hprod ▸ numHigh
      _ = 2 ^ (flog2Guess q + 1) * 2 ^ (q.den.log2 : Int) := by
          rw [← zpow_add₀ two_ne_zero]; congr 1; unfold flog2Guess; omega
      _ ≤ 2 ^ (flog2Guess q + 1) * q.den := by gcongr

theorem zpow_flog2_le {q : Rat} (hq : 0 < q) : (2 : Rat) ^ flog2 q ≤ q := by
  rw [flog2_eq]
  split_ifs with h
  · exact h
  · exact (flog2Guess_bounds hq).1

theorem lt_zpow_flog2_add_one {q : Rat} (hq : 0 < q) : q < (2 : Rat) ^ (flog2 q + 1) := by
  rw [flog2_eq]
  split_ifs with h
  · exact (flog2Guess_bounds hq).2
  · rw [sub_add_cancel]
    exact not_le.1 h

/-- Settles O48: `round` by its three branches, `flog2` by the bounds of its two candidates. -/
theorem roundingAndLogarithm : Obligations.RoundingAndLogarithm :=
  ⟨fun q => ⟨abs_roundHalfEven_sub_le q, fun htie =>
      two_dvd_roundHalfEven (sub_floor_of_abs_roundHalfEven htie)⟩,
    fun _ hq => ⟨zpow_flog2_le hq, lt_zpow_flog2_add_one hq⟩⟩

end Sys2Proof.Machine
end

section
/-! SUPPORT. What an operation adds to the trace, and the proof of EveryOperationIsBracketed: between its OpStart and its
OpEnd an operation logs no other bracket, and it leaves the configuration and the host's program alone
(00_scope.md R12; 10_state.md R24). -/

namespace Sys2Proof.Machine

/-- The two events that bracket an operation (10_state.md R24). -/
def Event.isBracket : Event → Bool
  | .opStart _ | .opEnd _ => true
  | _ => false

theorem Interaction.events_not_bracket {p : EchoPolicy} {x : Interaction} {ev : Event} (h : ev ∈ x.events p) :
    ev.isBracket = false := by
  cases x with
  | spi tx rx =>
      simp only [Interaction.events, echoWarnings, List.mem_append, List.mem_cons, List.not_mem_nil, or_false] at h
      rcases h with (rfl | rfl) | h
      · rfl
      · rfl
      · split at h
        · obtain ⟨k, -, rfl⟩ := List.mem_map.1 h
          rfl
        · cases h
  | gpio t r => cases List.mem_singleton.1 h; rfl
  | note w => cases List.mem_singleton.1 h; rfl

/-- A list of interactions adds its events to the trace, in order. -/
theorem interact_trace {p : EchoPolicy} : ∀ {ix : List Interaction} {env env' : Environment} {tr tr' : List Event},
    interact p env tr ix = some (env', tr') → tr' = tr ++ ix.flatMap (Interaction.events p)
  | [], _, _, _, _, h => by cases h; simp
  | .spi tx rx :: ix, _, _, _, _, h => by
      simp only [interact] at h
      split at h
      · rw [interact_trace h, List.flatMap_cons, List.append_assoc]
      · cases h
  | .gpio t r :: ix, _, _, _, _, h => by
      simp only [interact] at h
      split at h
      · rw [interact_trace h, List.flatMap_cons, List.append_assoc]
      · cases h
  | .note w :: ix, _, _, _, _, h => by
      simp only [interact] at h
      rw [interact_trace h, List.flatMap_cons, List.append_assoc]

/-- From `s` to `t` the events `ev`, none of them a bracket, are logged; the configuration, the program and the index
stay. -/
structure GrowsBy (s : State) (ev : List Event) (t : State) : Prop where
  trace : t.trace = s.trace ++ ev
  inner : ∀ e ∈ ev, e.isBracket = false
  cfg : t.cfg = s.cfg
  program : t.program = s.program
  pc : t.pc = s.pc

theorem GrowsBy.refl (s : State) : GrowsBy s [] s := ⟨by simp, by simp, rfl, rfl, rfl⟩

theorem GrowsBy.trans {s t u : State} {ev ev' : List Event} (h : GrowsBy s ev t) (h' : GrowsBy t ev' u) :
    GrowsBy s (ev ++ ev') u where
  trace := by rw [h'.trace, h.trace, List.append_assoc]
  inner e he := (List.mem_append.1 he).elim (h.inner e) (h'.inner e)
  cfg := h'.cfg.trans h.cfg
  program := h'.program.trans h.program
  pc := h'.pc.trans h.pc

theorem growsBy_emit (s : State) {e : Event} (he : e.isBracket = false) : GrowsBy s [e] (s.emit e) :=
  ⟨rfl, by simpa using he, rfl, rfl, rfl⟩

theorem growsBy_xferred (s : State) (tx : Bytes) : GrowsBy s [.xfer tx (s.reply tx)] (s.xferred tx) :=
  ⟨rfl, by simp [Event.isBracket], rfl, rfl, rfl⟩

theorem growsBy_transacted (s : State) (tx : Bytes) :
    GrowsBy s [.xfer tx (s.reply tx), .statusObserved (byteAt (s.reply tx) 0)] (s.transacted tx) :=
  ⟨by simp, by simp [Event.isBracket], rfl, rfl, rfl⟩

variable {P : Interaction → Prop} {i : Instr} {s t u : State}

theorem Path.grows (h : Path P s t) : ∃ ev, GrowsBy s ev t := by
  obtain ⟨ix, env, tr, hi, -, -, rfl⟩ := h
  refine ⟨ix.flatMap (Interaction.events s.cfg.echoPolicy), interact_trace hi, fun e he => ?_, rfl, rfl, rfl⟩
  obtain ⟨x, -, hx⟩ := List.mem_flatMap.1 he
  exact Interaction.events_not_bracket hx

theorem Stops.grows {e : ErrorInfo} (h : Stops P e s t) : ∃ ev, GrowsBy s ev t := by
  cases h with
  | check => exact ⟨_, GrowsBy.refl _⟩
  | length tx => exact ⟨_, growsBy_xferred _ tx⟩
  | echo tx => exact ⟨_, growsBy_transacted _ tx⟩

/-- What EveryOperationIsBracketed says of one operation that leads from `s` to `t`. -/
def Bracketed (i : Instr) (s t : State) : Prop :=
  ∃ (ev : List Event) (o : OpOutcome), t.trace = s.trace ++ .opStart (.op i) :: ev ++ [.opEnd o] ∧
    (∀ c, Event.opStart c ∉ ev) ∧ (∀ o', Event.opEnd o' ∉ ev) ∧ t.cfg = s.cfg ∧ t.program = s.program ∧ t.pc = s.pc

/-- A body that logs no bracket, followed by one OpEnd. -/
theorem GrowsBy.bracketed {ev : List Event} {o : OpOutcome} (h : GrowsBy (s.started i) ev u)
    (htrace : t.trace = u.trace ++ [.opEnd o]) (hcfg : t.cfg = u.cfg) (hprogram : t.program = u.program)
    (hpc : t.pc = u.pc) : Bracketed i s t := by
  refine ⟨ev, o, ?_, fun c hc => ?_, fun o' ho => ?_, hcfg.trans h.cfg, hprogram.trans h.program, hpc.trans h.pc⟩
  · rw [htrace, h.trace]
    simp
  · exact Bool.noConfusion (h.inner _ hc)
  · exact Bool.noConfusion (h.inner _ ho)

theorem exec_bracketed (i : Instr) (s : State) : ∃ t, exec i s = .next t ∧ Bracketed i s t := by
  rcases exec_cases i s with ⟨-, he⟩ | ⟨-, ⟨u, v, hpath, he⟩ | ⟨u', u, e, hpath, hstop, he⟩ | ⟨u, h, n, hpath, he⟩⟩
  · exact ⟨_, he, (GrowsBy.refl _).bracketed rfl rfl rfl rfl⟩
  · obtain ⟨ev, hgrow⟩ := hpath.grows
    exact ⟨_, he, hgrow.bracketed rfl rfl rfl rfl⟩
  · obtain ⟨ev, hgrow⟩ := hpath.grows
    obtain ⟨ev', hgrow'⟩ := hstop.grows
    have hraise := growsBy_emit u (e := .errorRaised ⟨i, e⟩) rfl
    exact ⟨_, he, ((hgrow.trans hgrow').trans hraise).bracketed (o := .err ⟨i, e⟩) (by simp) rfl rfl rfl⟩
  · obtain ⟨ev, hgrow⟩ := hpath.grows
    exact ⟨_, he, hgrow.bracketed rfl rfl rfl rfl⟩

/-- Settles O9: every end of an operation that `exec_cases` lists logs one OpEnd after events that are no brackets. -/
theorem everyOperationIsBracketed : Obligations.EveryOperationIsBracketed := by
  intro i s
  obtain ⟨t, he, ev, o, hbracketed⟩ := exec_bracketed i s
  exact ⟨t, ev, o, he, hbracketed⟩

end Sys2Proof.Machine
end

section
/-! SUPPORT. What a call adds to the block's records, and the proof of StepKeepsLogs: the error list, the refusal mark and
the last status byte take up what the new events say, and nothing else (10_state.md R22 to R24). -/

namespace Sys2Proof.Machine

/-! ### Reading a trace -/

@[simp] theorem errorsIn_append (tr tr' : List Event) : errorsIn (tr ++ tr') = errorsIn tr ++ errorsIn tr' :=
  List.filterMap_append

@[simp] theorem statusesIn_append (tr tr' : List Event) : statusesIn (tr ++ tr') = statusesIn tr ++ statusesIn tr' :=
  List.filterMap_append

theorem newEvents_eq {s t : State} {ev : List Event} (h : t.trace = s.trace ++ ev) : newEvents s t = ev := by
  rw [newEvents, h, List.drop_left]

/-! ### The events of interactions -/

theorem mem_echoWarnings {p : EchoPolicy} {tx rx : Bytes} {ev : Event} (h : ev ∈ echoWarnings p tx rx) :
    ∃ w, ev = .warning w := by
  unfold echoWarnings at h
  split at h
  · obtain ⟨k, -, rfl⟩ := List.mem_map.1 h
    exact ⟨_, rfl⟩
  · cases h

/-- The four kinds of event an interaction can log. -/
theorem Interaction.events_cases {p : EchoPolicy} {x : Interaction} {ev : Event} (h : ev ∈ x.events p) :
    (∃ tx rx, ev = .xfer tx rx) ∨ (∃ b, ev = .statusObserved b) ∨ (∃ t r, ev = .gpioWait t r) ∨
      ∃ w, ev = .warning w := by
  cases x with
  | spi tx rx =>
      rcases List.mem_append.1 h with h | h
      · simp only [List.mem_cons, List.not_mem_nil, or_false] at h
        exact h.imp (fun e => ⟨tx, rx, e⟩) fun e => .inl ⟨_, e⟩
      · exact .inr (.inr (.inr (mem_echoWarnings h)))
  | gpio t r => exact .inr (.inr (.inl ⟨t, r, List.mem_singleton.1 h⟩))
  | note w => exact .inr (.inr (.inr ⟨w, List.mem_singleton.1 h⟩))

theorem echoWarnings_statuses (p : EchoPolicy) (tx rx : Bytes) : statusesIn (echoWarnings p tx rx) = [] :=
  List.filterMap_eq_nil_iff.2 fun _ he => by
    obtain ⟨w, rfl⟩ := mem_echoWarnings he
    rfl

/-- The status byte an interaction observes: only a transfer does, and it observes one (40_bus_codec.md R120). -/
def Interaction.observed : Interaction → List Byte
  | .spi _ rx => [byteAt rx 0]
  | .gpio _ _ | .note _ => []

theorem Interaction.statuses_events (p : EchoPolicy) (x : Interaction) : statusesIn (x.events p) = x.observed := by
  cases x with
  | spi tx rx => rw [Interaction.events, statusesIn_append, echoWarnings_statuses]; rfl
  | gpio t r => rfl
  | note w => rfl

/-- The last status byte after some interactions is the last one their events log. -/
theorem statusAfter_eq (p : EchoPolicy) : ∀ (b : Option Byte) (ix : List Interaction),
    statusAfter b ix = (statusesIn (ix.flatMap (Interaction.events p))).getLast?.or b
  | b, [] => by cases b <;> rfl
  | b, x :: ix => by
      rw [List.flatMap_cons, statusesIn_append, List.getLast?_append, Interaction.statuses_events, Option.or_assoc]
      cases x <;> exact statusAfter_eq p _ ix

/-! ### Records -/

/-- From `s` to `t` the events `ev` are logged, and the records take up what they say: the errors, a refusal, the last
status byte. -/
structure Records (s : State) (ev : List Event) (t : State) : Prop where
  trace : t.trace = s.trace ++ ev
  faults : t.faults = s.faults ++ errorsIn ev
  refused : t.refused = (s.refused || ev.any isRefusal)
  lastStatus : t.lastStatus = (statusesIn ev).getLast?.or s.lastStatus

variable {P : Interaction → Prop} {i : Instr} {s t u : State}

theorem Records.refl (s : State) : Records s [] s :=
  ⟨by simp, by simp [errorsIn], by simp, by simp [statusesIn]⟩

theorem Records.trans {ev ev' : List Event} (h : Records s ev t) (h' : Records t ev' u) : Records s (ev ++ ev') u where
  trace := by rw [h'.trace, h.trace, List.append_assoc]
  faults := by rw [h'.faults, h.faults, errorsIn_append, List.append_assoc]
  refused := by rw [h'.refused, h.refused, List.any_append, Bool.or_assoc]
  lastStatus := by rw [h'.lastStatus, h.lastStatus, statusesIn_append, List.getLast?_append, Option.or_assoc]

/-- Records that say what the trace says go on doing so. -/
theorem Records.logsAgree {ev : List Event} (h : Records s ev t) (hs : LogsAgree s) : LogsAgree t := by
  obtain ⟨hfaults, hrefused, hstatus⟩ := hs
  refine ⟨?_, ?_, ?_⟩
  · rw [h.faults, hfaults, h.trace, errorsIn_append]
  · rw [h.refused, hrefused, h.trace, List.any_append]
  · rw [h.lastStatus, hstatus, h.trace, statusesIn_append, List.getLast?_append]

theorem records_opStart (s : State) (c : HostCall) : Records s [.opStart c] (s.emit (.opStart c)) :=
  ⟨rfl, by simp [errorsIn], by simp [isRefusal], by simp [statusesIn]⟩

theorem records_refuse (s : State) (r : RefuseReason) : Records s [.opEnd (.refused r)] (s.refuse r) :=
  ⟨rfl, by simp [errorsIn], by simp [isRefusal], by simp [statusesIn]⟩

theorem records_takeError (s : State) (e : ErrorRecord) :
    Records s [.errorRaised e, .opEnd (.err e)] (s.takeError e) :=
  ⟨rfl, by simp [errorsIn], by simp [isRefusal], by simp [statusesIn]⟩

theorem records_ok (s : State) (l : Life) (v : Value) :
    Records s [.opEnd (.ok v)] (State.emit { s with life := l } (.opEnd (.ok v))) :=
  ⟨rfl, by simp [errorsIn], by simp [isRefusal], by simp [statusesIn]⟩

/-- Interactions raise no error. -/
theorem interactions_errors (p : EchoPolicy) (ix : List Interaction) :
    errorsIn (ix.flatMap (Interaction.events p)) = [] :=
  List.filterMap_eq_nil_iff.2 fun _ he => by
    obtain ⟨x, -, hx⟩ := List.mem_flatMap.1 he
    obtain ⟨_, _, rfl⟩ | ⟨_, rfl⟩ | ⟨_, _, rfl⟩ | ⟨_, rfl⟩ := Interaction.events_cases hx <;> rfl

/-- Interactions refuse nothing. -/
theorem interactions_refusal (p : EchoPolicy) (ix : List Interaction) :
    (ix.flatMap (Interaction.events p)).any isRefusal = false :=
  List.any_eq_false.2 fun _ he => by
    obtain ⟨x, -, hx⟩ := List.mem_flatMap.1 he
    obtain ⟨_, _, rfl⟩ | ⟨_, rfl⟩ | ⟨_, _, rfl⟩ | ⟨_, rfl⟩ := Interaction.events_cases hx <;> simp [isRefusal]

theorem Path.records (h : Path P s t) : ∃ ev, Records s ev t := by
  obtain ⟨ix, env, tr, hi, -, -, rfl⟩ := h
  refine ⟨_, interact_trace hi, ?_, ?_, statusAfter_eq _ _ _⟩
  · rw [interactions_errors, List.append_nil]; rfl
  · rw [interactions_refusal, Bool.or_false]; rfl

theorem Stops.records {e : ErrorInfo} (h : Stops P e s t) : ∃ ev, Records s ev t := by
  cases h with
  | check => exact ⟨_, Records.refl _⟩
  | length tx =>
      exact ⟨[.xfer tx (s.reply tx)], rfl, by simp [errorsIn], by simp [isRefusal], by simp [statusesIn]⟩
  | echo tx =>
      exact ⟨[.xfer tx (s.reply tx), .statusObserved (byteAt (s.reply tx) 0)], by simp, by simp [errorsIn],
        by simp [isRefusal], by simp [statusesIn]⟩

/-- Whichever way an operation ends, the records take up what it logged. -/
theorem exec_records (h : exec i s = .next t) : ∃ ev, Records s ev t := by
  have hstart : Records s [.opStart (.op i)] (s.started i) := records_opStart s (.op i)
  rcases exec_cases i s with ⟨-, he⟩ | ⟨-, ⟨u, v, hpath, he⟩ | ⟨u', u, e, hpath, hstop, he⟩ | ⟨u, b, n, hpath, he⟩⟩ <;>
    cases he.symm.trans h
  · exact ⟨_, hstart.trans (records_refuse _ _)⟩
  · obtain ⟨ev, hev⟩ := hpath.records
    exact ⟨_, (hstart.trans hev).trans (records_ok _ _ v)⟩
  · obtain ⟨ev, hev⟩ := hpath.records
    obtain ⟨ev', hev'⟩ := hstop.records
    exact ⟨_, ((hstart.trans hev).trans hev').trans (records_takeError _ _)⟩
  · obtain ⟨ev, hev⟩ := hpath.records
    exact ⟨_, (hstart.trans hev).trans (records_refuse _ _)⟩

/-! ### Calls and steps -/

/-- The reason a raw frame of no legal form is refused for (30_encoding.md R90; log entry 4). -/
def rawRefusal (h : Byte) (data : Bytes) (l : Life) : RefuseReason :=
  if l = .ready then .illegalForm h data.length else .wrongState (.raw h data) l

theorem refuseRaw_eq (h : Byte) (data : Bytes) (s : State) :
    refuseRaw h data s = (s.emit (.opStart (.raw h data))).refuse (rawRefusal h data s.life) := by
  unfold refuseRaw rawRefusal
  split <;> rfl

/-- A call runs the instruction it decodes to, or it is a raw frame of no legal form. -/
theorem runCall_cases (c : HostCall) (s : State) :
    (∃ i, decodeCall c = .ok i ∧ runCall c s = exec i s) ∨
      ∃ h data e, c = .raw h data ∧ decode (h :: data) = .error e ∧ runCall c s = .next (refuseRaw h data s) := by
  cases c with
  | op i => exact .inl ⟨i, rfl, rfl⟩
  | raw h data =>
      cases hd : decode (h :: data) with
      | ok i => exact .inl ⟨i, hd, by simp [runCall, decodeCall, hd]⟩
      | error e => exact .inr ⟨h, data, e, rfl, hd, by simp [runCall, decodeCall, hd]⟩

theorem records_refuseRaw (h : Byte) (data : Bytes) (s : State) :
    Records s [.opStart (.raw h data), .opEnd (.refused (rawRefusal h data s.life))] (refuseRaw h data s) := by
  rw [refuseRaw_eq]
  exact (records_opStart s _).trans (records_refuse _ _)

theorem runCall_records {c : HostCall} (h : runCall c s = .next t) : ∃ ev, Records s ev t := by
  rcases runCall_cases c s with ⟨i, -, hrun⟩ | ⟨b, data, -, -, -, hrun⟩
  · exact exec_records (hrun.symm.trans h)
  · cases hrun.symm.trans h
    exact ⟨_, records_refuseRaw b data s⟩

/-- A step is a call of the program followed by the move of the index (10_state.md R27). -/
theorem step_cases (h : step s = .next t) :
    ∃ c u, s.fetch = some c ∧ runCall c s = .next u ∧ t = { u with pc := u.pc + 1 } := by
  unfold step at h
  cases hf : s.fetch with
  | none => simp [hf] at h
  | some c =>
      simp only [hf] at h
      cases hr : runCall c s with
      | next u => rw [hr] at h; cases h; exact ⟨c, u, rfl, hr, rfl⟩
      | fault f => rw [hr] at h; cases h
      | refused r => rw [hr] at h; cases h

/-- Settles O24: the events of a call and what the records take up are the same, and the index is in none of them. -/
theorem stepKeepsLogs : Obligations.StepKeepsLogs := by
  intro s t hs hstep
  obtain ⟨c, u, -, hrun, rfl⟩ := step_cases hstep
  obtain ⟨ev, hrecords⟩ := runCall_records hrun
  exact hrecords.logsAgree hs

end Sys2Proof.Machine
end

section
/-! SUPPORT. No operation looks at the last status byte, and the proof of LastStatusIsTelemetry (10_state.md R28;
70_reset_and_hazards.md R407). -/

namespace Sys2Proof.Machine

/-- The state with another last status byte. -/
def State.withStatus (s : State) (b : Option Byte) : State := { s with lastStatus := b }

/-- The end of a body with another last status byte. -/
def resultWithStatus {α : Type} (b : Option Byte) : EStateM.Result Abort State α → EStateM.Result Abort State α
  | .ok a t => .ok a (t.withStatus b)
  | .error e t => .error e (t.withStatus b)

/-- From another last status byte the body ends in the same way, up to the last status byte. -/
def Blind {α : Type} (x : Op α) : Prop := ∀ s b, ∃ b', x (s.withStatus b) = resultWithStatus b' (x s)

variable {α β : Type}

theorem Blind.pure (a : α) : Blind (Pure.pure a : Op α) := fun _ b => ⟨b, rfl⟩

theorem Blind.raise (e : ErrorInfo) : Blind (raise e : Op α) := fun _ b => ⟨b, rfl⟩

theorem Blind.bind {x : Op α} {f : α → Op β} (hx : Blind x) (hf : ∀ a, Blind (f a)) : Blind (x >>= f) := by
  intro s b
  obtain ⟨b', h⟩ := hx s b
  simp only [Bind.bind, EStateM.bind, h]
  cases x s with
  | ok a t => exact hf a t b'
  | error e t => exact ⟨b', rfl⟩

theorem blind_getCfg : Blind getCfg := fun _ b => ⟨b, rfl⟩

theorem blind_getLife : Blind getLife := fun _ b => ⟨b, rfl⟩

theorem blind_setLife (l : Life) : Blind (setLife l) := fun _ b => ⟨b, rfl⟩

theorem blind_warn (w : Warning) : Blind (warn w) := fun _ b => ⟨b, rfl⟩

theorem blind_gpioWaitRising (t : Timeout) : Blind (gpioWaitRising t) := fun _ b => ⟨b, rfl⟩

theorem blind_require (p : Prop) [Decidable p] (e : ErrorInfo) : Blind (require p e) := by
  unfold require
  split
  · exact .pure ()
  · exact .raise e

/-- The oracle's answer depends on the trace and the bytes sent alone (10_state.md R21). -/
theorem State.reply_withStatus (s : State) (b : Option Byte) (tx : Bytes) : (s.withStatus b).reply tx = s.reply tx := rfl

theorem blind_transact (tx : Bytes) (n : Nat) : Blind (transact tx n) := by
  intro s b
  by_cases hl : legalFrame tx = true
  · by_cases hn : (s.reply tx).length = n
    · exact ⟨some (byteAt (s.reply tx) 0), by simp only [transact, State.reply_withStatus, hl, hn, if_true]; rfl⟩
    · exact ⟨b, by simp only [transact, State.reply_withStatus, hl, hn, if_true, if_false]; rfl⟩
  · exact ⟨b, by simp only [transact, hl]; rfl⟩

theorem blind_echoCheckFrom (p : EchoPolicy) (h lead : Byte) : ∀ (i : Nat) (bs : Bytes),
    Blind (echoCheckFrom p h lead i bs)
  | _, [] => .pure ()
  | i, c :: bs => by
      have ih := blind_echoCheckFrom p h lead (i + 1) bs
      cases p <;> simp only [echoCheckFrom] <;> split
      · exact ih
      · exact (blind_warn _).bind fun _ => ih
      · exact ih
      · exact .raise _
      · exact ih
      · exact .raise _

/-! ### The shared operations -/

theorem blind_readSingle (a : Addr6) : Blind (readSingle a) := (blind_transact _ _).bind fun _ => .pure _

theorem blind_readBurst (a : Addr6) (n : Nat) : Blind (readBurst a n) := (blind_transact _ _).bind fun _ => .pure _

theorem blind_readStatusAt (a : Addr6) : Blind (readStatusAt a) := (blind_transact _ _).bind fun _ => .pure _

theorem blind_strobeAt (a : Addr6) : Blind (strobeAt a) := (blind_transact _ _).bind fun _ => .pure _

theorem blind_writeBurst (a : Addr6) (v : Bytes) : Blind (writeBurst a v) :=
  (blind_transact _ _).bind fun _ => blind_getCfg.bind fun _ => blind_echoCheckFrom _ _ _ _ _

theorem blind_readModifyWrite (a : Addr6) (f : Byte → Byte) : Blind (readModifyWrite a f) :=
  (blind_readSingle a).bind fun _ => blind_writeBurst _ _

theorem blind_fieldGet (f : Field) : Blind (fieldGet f) := (blind_readSingle _).bind fun _ => .pure _

theorem blind_fieldSet (f : Field) (v : Nat) : Blind (fieldSet f v) := blind_readModifyWrite _ _

theorem blind_setPAIndex (i : Int) : Blind (setPAIndex i) := (blind_require _ _).bind fun _ => blind_fieldSet _ _

theorem blind_setCalibrationOnWake (v : Int) : Blind (setCalibrationOnWake v) :=
  (blind_require _ _).bind fun _ => blind_fieldSet _ _

theorem blind_setSymbolRateFP (m e : Int) : Blind (setSymbolRateFP m e) :=
  (blind_require _ _).bind fun _ => (blind_require _ _).bind fun _ =>
    (blind_readSingle _).bind fun _ => blind_writeBurst _ _

theorem blind_getFrequencyWord : Blind getFrequencyWord := (blind_readBurst _ _).bind fun _ => .pure _

theorem blind_getSymbolRateFP : Blind getSymbolRateFP := (blind_readBurst _ _).bind fun _ => .pure _

theorem blind_getFilterBandwidthFP : Blind getFilterBandwidthFP := (blind_readSingle _).bind fun _ => .pure _

theorem blind_setPreambleLength (n : Int) : Blind (setPreambleLength n) := by
  unfold setPreambleLength
  split
  · exact blind_fieldSet _ _
  · exact .raise _

theorem blind_setOutputPower (values : List Int) : Blind (setOutputPower values) := by
  refine (blind_require _ _).bind fun _ => ?_
  split
  · exact .raise _
  · exact (blind_writeBurst _ _).bind fun _ => blind_fieldSet _ _

theorem blind_setBaseFrequencyHz (hz : Hz) : Blind (setBaseFrequencyHz hz) := by
  refine blind_getCfg.bind fun c => (blind_require _ _).bind fun _ => ?_
  split
  · exact (blind_warn _).bind fun _ => blind_writeBurst _ _
  · exact blind_writeBurst _ _

theorem blind_setSymbolRateBaud (baud : Baud) : Blind (setSymbolRateBaud baud) :=
  blind_getCfg.bind fun _ => (blind_require _ _).bind fun _ => (blind_require _ _).bind fun _ =>
    blind_setSymbolRateFP _ _

theorem blind_requireIdle (k : ErrorKind) : Blind (requireIdle k) :=
  (blind_readStatusAt _).bind fun _ => blind_require _ _

theorem blind_verifyIdentity : Blind verifyIdentity :=
  blind_getCfg.bind fun _ => (blind_readStatusAt _).bind fun _ => (blind_require _ _).bind fun _ =>
    (blind_readStatusAt _).bind fun _ => blind_require _ _

theorem blind_configureDefaults : Blind configureDefaults :=
  (blind_fieldSet _ _).bind fun _ => (blind_setPAIndex _).bind fun _ => (blind_fieldSet _ _).bind fun _ =>
    blind_setCalibrationOnWake _

theorem blind_openBlock : Blind openBlock :=
  (blind_strobeAt _).bind fun _ => blind_verifyIdentity.bind fun _ => blind_configureDefaults.bind fun _ =>
    (blind_requireIdle _).bind fun _ => (blind_setLife _).bind fun _ => .pure _

theorem blind_asyncEndSequence : Blind asyncEndSequence :=
  (blind_strobeAt _).bind fun _ => blind_fieldSet _ _

theorem blind_closeBlock : Blind closeBlock := by
  refine blind_getLife.bind fun l => ?_
  cases l with
  | asyncTx => exact blind_asyncEndSequence.bind fun _ => (blind_setLife _).bind fun _ => .pure _
  | closed => exact .pure _
  | ready | faulted => exact (blind_setLife _).bind fun _ => .pure _

theorem blind_asyncTxBegin : Blind asyncTxBegin :=
  (blind_fieldSet _ _).bind fun _ => (blind_strobeAt _).bind fun _ => (blind_setLife _).bind fun _ => .pure _

theorem blind_asyncTxEnd : Blind asyncTxEnd :=
  blind_asyncEndSequence.bind fun _ => (blind_setLife _).bind fun _ => .pure _

theorem blind_orRaise (r : Except ErrorInfo α) : Blind (orRaise r) := by
  cases r with
  | ok a => exact .pure a
  | error e => exact .raise e

theorem blind_transmit (payload : Bytes) : Blind (transmit payload) :=
  (blind_require _ _).bind fun _ => ((blind_fieldGet _).bind fun _ => .pure _).bind fun _ =>
    (blind_readSingle _).bind fun _ => (blind_orRaise _).bind fun _ => (blind_requireIdle _).bind fun _ =>
      (blind_strobeAt _).bind fun _ => (blind_writeBurst _ _).bind fun _ => blind_strobeAt _

theorem blind_drainPacket : Blind drainPacket := by
  refine ((blind_readStatusAt _).bind fun _ => .pure _).bind fun n => ?_
  split
  · exact .pure _
  · split
    · exact .raise _
    · exact (blind_readBurst _ _).bind fun _ => .pure _

theorem blind_receive (t : Timeout) : Blind (receive t) := by
  refine (blind_strobeAt _).bind fun _ => (blind_gpioWaitRising t).bind fun edge => ?_
  split
  · exact blind_drainPacket
  · exact (blind_strobeAt _).bind fun _ => .pure _

/-! ### Host operations -/

/-- An operation that, from another last status byte, reaches the same next state up to the last status byte. -/
def IgnoresStatus (f : State → Host.Outcome State Fault Refusal) : Prop :=
  ∀ s b, ∃ t b', f s = .next t ∧ f (s.withStatus b) = .next (t.withStatus b')

theorem finish_withStatus (i : Instr) (b : Option Byte) (r : EStateM.Result Abort State Value) :
    finish i (resultWithStatus b r) = (finish i r).withStatus b := by
  cases r with
  | ok v t => rfl
  | error e t => cases e <;> rfl

theorem Blind.runOp {i : Instr} {x : Op Value} (hx : Blind x) : IgnoresStatus (runOp i x) := by
  intro s b
  obtain ⟨b', h⟩ := hx (s.started i) b
  unfold Machine.runOp
  by_cases ha : accepts s.life i = true
  · refine ⟨_, b', if_pos ha, (if_pos ha).trans ?_⟩
    rw [← finish_withStatus, ← h]
    rfl
  · exact ⟨_, b, if_neg ha, if_neg ha⟩

/-- R28 for every arm of the dispatch. -/
theorem exec_ignoresStatus (i : Instr) : IgnoresStatus (exec i) := by
  cases i with
  | rd1 a => exact Blind.runOp ((blind_readSingle a).bind fun _ => .pure _)
  | rdb a n => exact Blind.runOp ((blind_readBurst a n).bind fun _ => .pure _)
  | rdbPatable n | rdbRxFifo n => exact Blind.runOp ((blind_readBurst _ n).bind fun _ => .pure _)
  | getSyncWord | getPatable => exact Blind.runOp ((blind_readBurst _ _).bind fun _ => .pure _)
  | rds a => exact Blind.runOp ((blind_readStatusAt a).bind fun _ => .pure _)
  | rdsPartnum | rdsVersion | rdsFreqest | rdsLqi | rdsRssi | rdsMarcstate | rdsWortime1 | rdsWortime0 | rdsPktstatus
  | rdsVcoVcDac | rdsTxbytes | rdsRxbytes | rdsRcctrl1Status | rdsRcctrl0Status | getMarcstate =>
      exact Blind.runOp ((blind_readStatusAt _).bind fun _ => .pure _)
  | stb a => exact Blind.runOp ((blind_strobeAt a).bind fun _ => .pure _)
  | resetOp | stbSres | stbSfstxon | stbSxoff | stbScal | stbSrx | stbStx | stbSidle | stbSwor | stbSpwd | stbSfrx
  | stbSftx | stbSworrst | stbSnop => exact Blind.runOp ((blind_strobeAt _).bind fun _ => .pure _)
  | wrb a v => exact Blind.runOp ((blind_writeBurst a v).bind fun _ => .pure _)
  | wrbPatable v | wrbTxFifo v => exact Blind.runOp ((blind_writeBurst _ v).bind fun _ => .pure _)
  | getFrequencyWord => exact Blind.runOp (blind_getFrequencyWord.bind fun _ => .pure _)
  | getSymbolRateFP => exact Blind.runOp (blind_getSymbolRateFP.bind fun _ => .pure _)
  | getFilterBandwidthFP => exact Blind.runOp (blind_getFilterBandwidthFP.bind fun _ => .pure _)
  | getBaseFrequencyHz =>
      exact Blind.runOp ((blind_getFrequencyWord.bind fun _ => blind_getCfg.bind fun _ => .pure _).bind fun _ => .pure _)
  | getSymbolRateBaud =>
      exact Blind.runOp ((blind_getSymbolRateFP.bind fun _ => blind_getCfg.bind fun _ => .pure _).bind fun _ => .pure _)
  | getFilterBandwidthHz =>
      exact Blind.runOp
        ((blind_getFilterBandwidthFP.bind fun _ => blind_getCfg.bind fun _ => .pure _).bind fun _ => .pure _)
  | getSyncMode => exact Blind.runOp (((blind_readSingle _).bind fun _ => .pure _).bind fun _ => .pure _)
  | getPacketLength => exact Blind.runOp ((blind_readSingle _).bind fun _ => .pure _)
  | getModulationFormat | getPreambleLength | getPacketLengthMode | getTransceiveMode =>
      exact Blind.runOp (((blind_fieldGet _).bind fun _ => .pure _).bind fun _ => .pure _)
  | getChecksumEnabled | getDataWhiteningEnabled | getManchesterEnabled | getPAIndex | getCalibrationOnWake =>
      exact Blind.runOp ((blind_fieldGet _).bind fun _ => .pure _)
  | getOutputPower =>
      exact Blind.runOp (((blind_readBurst _ _).bind fun _ => (blind_fieldGet _).bind fun _ => .pure _).bind
        fun _ => .pure _)
  | setFrequencyWord _ | setSyncWord _ | setPacketLength _ =>
      exact Blind.runOp (((blind_require _ _).bind fun _ => blind_writeBurst _ _).bind fun _ => .pure _)
  | setSymbolRateFP m e => exact Blind.runOp ((blind_setSymbolRateFP m e).bind fun _ => .pure _)
  | setFilterBandwidthFP m e =>
      exact Blind.runOp (((blind_require _ _).bind fun _ => (blind_require _ _).bind fun _ =>
        blind_readModifyWrite _ _).bind fun _ => .pure _)
  | setSyncMode mode cs => exact Blind.runOp ((blind_readModifyWrite _ _).bind fun _ => .pure _)
  | setPreambleLength n => exact Blind.runOp ((blind_setPreambleLength n).bind fun _ => .pure _)
  | setModulationFormat _ | setPacketLengthMode _ | setTransceiveMode _ =>
      exact Blind.runOp ((blind_fieldSet _ _).bind fun _ => .pure _)
  | enableChecksum | disableChecksum | enableDataWhitening | disableDataWhitening | enableManchester
  | disableManchester => exact Blind.runOp ((blind_fieldSet _ _).bind fun _ => .pure _)
  | setPAIndex k => exact Blind.runOp ((blind_setPAIndex k).bind fun _ => .pure _)
  | setOutputPower values => exact Blind.runOp ((blind_setOutputPower values).bind fun _ => .pure _)
  | setCalibrationOnWake v => exact Blind.runOp ((blind_setCalibrationOnWake v).bind fun _ => .pure _)
  | setBaseFrequencyHz hz => exact Blind.runOp ((blind_setBaseFrequencyHz hz).bind fun _ => .pure _)
  | setSymbolRateBaud baud => exact Blind.runOp ((blind_setSymbolRateBaud baud).bind fun _ => .pure _)
  | openOp => exact Blind.runOp blind_openBlock
  | closeOp => exact Blind.runOp blind_closeBlock
  | transmit payload => exact Blind.runOp ((blind_transmit payload).bind fun _ => .pure _)
  | receive t => exact Blind.runOp (blind_receive t)
  | asyncTxBegin => exact Blind.runOp blind_asyncTxBegin
  | asyncTxEnd => exact Blind.runOp blind_asyncTxEnd

/-- The last status byte an operation leaves: the last one it observed, else the one it found. -/
theorem exec_lastStatus {i : Instr} {s t : State} (h : exec i s = .next t) :
    t.lastStatus = (statusesIn (newEvents s t)).getLast?.or s.lastStatus := by
  obtain ⟨ev, hrecords⟩ := exec_records h
  rw [newEvents_eq hrecords.trace, hrecords.lastStatus]

/-- Settles O21: `exec` ignores the byte it finds, so both runs log the same events, and those say which byte is left. -/
theorem lastStatusIsTelemetry : Obligations.LastStatusIsTelemetry := by
  intro i s b
  obtain ⟨t, b', ht, ht'⟩ := exec_ignoresStatus i s b
  have hlast : t.lastStatus = (statusesIn (newEvents s t)).getLast?.or s.lastStatus := exec_lastStatus ht
  have hlast' : b' = (statusesIn (newEvents s t)).getLast?.or b := exec_lastStatus ht'
  refine ⟨t, t.withStatus b', ht, ht', rfl, fun hnone => ?_, fun hsome => ?_⟩
  · rw [hnone] at hlast hlast'
    exact ⟨hlast, hlast'⟩
  · obtain ⟨c, hc⟩ := Option.isSome_iff_exists.1 (List.getLast?_isSome.2 hsome)
    rw [hc] at hlast hlast'
    exact hlast'.trans hlast.symm

end Sys2Proof.Machine
end

section
/-! SUPPORT. The refusal mark, a step's call and the block just created: the proofs of RefusalMarkIsSticky,
StepRunsDecodedCall, ResetState and ResetMeetsInvariants (10_state.md R23, R27, R30). -/

namespace Sys2Proof.Machine

theorem isRefusal_iff {e : Event} : isRefusal e = true ↔ ∃ r, e = .opEnd (.refused r) := by
  constructor
  · intro he
    unfold isRefusal at he
    split at he
    · exact ⟨_, rfl⟩
    · cases he
  · rintro ⟨r, rfl⟩
    rfl

/-- The events of a call are some that refuse nothing and then the one that ends it (10_state.md R24). -/
theorem runCall_ends {c : HostCall} {s t : State} (h : runCall c s = .next t) :
    ∃ ev e, t.trace = s.trace ++ (ev ++ [e]) ∧ ev.any isRefusal = false := by
  rcases runCall_cases c s with ⟨i, -, hrun⟩ | ⟨b, data, -, -, -, hrun⟩
  · obtain ⟨t', he, ev, o, htrace, -, hinner, -⟩ := exec_bracketed i s
    cases he.symm.trans (hrun.symm.trans h)
    refine ⟨.opStart (.op i) :: ev, .opEnd o, by simpa using htrace, List.any_eq_false.2 fun e he hrefusal => ?_⟩
    obtain ⟨r, rfl⟩ := isRefusal_iff.1 hrefusal
    rcases List.mem_cons.1 he with he | he
    · cases he
    · exact hinner _ he
  · cases hrun.symm.trans h
    exact ⟨[_], _, (records_refuseRaw b data s).trace, rfl⟩

/-- Settles O10: the mark takes up the refusals among a call's events, and only the last one can be a refusal. -/
theorem refusalMarkIsSticky : Obligations.RefusalMarkIsSticky := by
  refine ⟨rfl, fun c s t hrun => ?_⟩
  obtain ⟨ev, e, htrace, hquiet⟩ := runCall_ends hrun
  obtain ⟨ev', hrecords⟩ := runCall_records hrun
  obtain rfl : ev' = ev ++ [e] := List.append_cancel_left (hrecords.trace.symm.trans htrace)
  rw [hrecords.refused, htrace, ← List.append_assoc, List.getLast?_concat, List.any_append, hquiet]
  simp [isRefusal_iff]

/-- Settles O8: `step` by its next call, `runCall` by what the call decodes to. -/
theorem stepRunsDecodedCall : Obligations.StepRunsDecodedCall := by
  refine ⟨fun s c i t hfetch hdecode hexec => ?_, fun s h data e hfetch hdecode => ?_, fun s hfetch => ?_⟩
  · have hrun : runCall c s = exec i s := by cases c <;> simp [runCall, hdecode]
    simp only [step, State.fetch, hfetch, hrun, hexec, advance]
  · have hrun : runCall (.raw h data) s = .next (refuseRaw h data s) := by simp [runCall, decodeCall, hdecode]
    simp only [step, State.fetch, hfetch, hrun, advance, refuseRaw_eq]
    simp [State.refuse, State.emit, rawRefusal]
  · simp only [step, State.fetch, hfetch]

/-- Settles O12: the fields of the state at reset. -/
theorem resetState : Obligations.ResetState := ⟨rfl, rfl, rfl, rfl, rfl⟩

/-- Settles O26: the trace at reset is empty, and a scripted oracle holds no memories. -/
theorem resetMeetsInvariants : Obligations.ResetMeetsInvariants := ⟨⟨rfl, rfl, rfl⟩, rfl⟩

end Sys2Proof.Machine
end

section
/-! SUPPORT. The lifecycle table of 10_state.md R25, and the proof of LifecycleTable. -/

namespace Sys2Proof.Machine

theorem accepts_iff (l : Life) (i : Instr) : accepts l i = true ↔ acceptedByR25 l i := by
  cases l <;> exact decide_eq_true_iff

/-- Every operation is refused where its lifecycle state does not accept it (10_state.md R25). -/
theorem exec_refuses_wrongState {i : Instr} {s : State} (h : ¬acceptedByR25 s.life i) :
    Refuses i s (.wrongState (.op i) s.life) := by
  obtain ⟨core, -, he⟩ := exec_follows i
  exact refuses_wrongState (he s) (Bool.eq_false_iff.2 fun ha => h ((accepts_iff _ _).1 ha))

/-! ### The lifecycle state an operation leaves -/

theorem lifeAfter_ok (l : Life) (i : Instr) (v : Value) : lifeAfter l i (.ok v) = endLife i l := by
  cases i <;> rfl

theorem lifeAfter_err (l : Life) (i : Instr) (e : ErrorInfo) :
    lifeAfter l i (.err ⟨i, e⟩) = lifeAfterError l ⟨i, e⟩ := by
  cases i <;> rfl

/-- A refusal leaves the lifecycle state alone (60_exceptions.md R357), but the table's row of `Close` says CLOSED for
every outcome: `Close` must never be refused. -/
theorem lifeAfter_refused {l : Life} {i : Instr} (h : acceptedByR25 l i) (hclose : i ≠ .closeOp) (r : RefuseReason) :
    lifeAfter l i (.refused r) = l := by
  cases i with
  | closeOp => exact absurd rfl hclose
  | openOp =>
      cases l with
      | closed => rfl
      | ready | asyncTx | faulted => simp [acceptedByR25] at h
  | _ => rfl

theorem Path.life {P : Interaction → Prop} {s t : State} (h : Path P s t) : t.life = s.life := by
  obtain ⟨ix, env, tr, -, -, -, rfl⟩ := h
  rfl

theorem Stops.life {P : Interaction → Prop} {e : ErrorInfo} {s t : State} (h : Stops P e s t) : t.life = s.life := by
  cases h <;> rfl

/-! ### Close is never refused -/

/-- The body does not end in a refusal. -/
def NeverRefused {α : Type} (x : Op α) : Prop := ∀ s r t, x s ≠ .error (.refuse r) t

variable {α β : Type}

theorem NeverRefused.pure (a : α) : NeverRefused (Pure.pure a : Op α) := fun _ _ _ h => nomatch h

theorem NeverRefused.bind {x : Op α} {f : α → Op β} (hx : NeverRefused x) (hf : ∀ a, NeverRefused (f a)) :
    NeverRefused (x >>= f) := by
  intro s r t h
  simp only [Bind.bind, EStateM.bind] at h
  cases hxs : x s with
  | ok a u => rw [hxs] at h; exact hf a u r t h
  | error e u => rw [hxs] at h; cases h; exact hx s r _ hxs

/-- A transfer of a form of 30_encoding.md R89 is not refused. -/
theorem neverRefused_transact {tx : Bytes} (n : Nat) (hl : legalFrame tx = true) : NeverRefused (transact tx n) := by
  intro s r t h
  simp only [transact, if_pos hl] at h
  split at h <;> cases h

theorem neverRefused_echoCheckFrom (p : EchoPolicy) (b lead : Byte) : ∀ (i : Nat) (bs : Bytes),
    NeverRefused (echoCheckFrom p b lead i bs)
  | _, [] => .pure ()
  | i, c :: bs => by
      have ih := neverRefused_echoCheckFrom p b lead (i + 1) bs
      have hraise : ∀ e, NeverRefused (raise e : Op Unit) := fun _ _ _ _ h => nomatch h
      have hwarn : ∀ w, NeverRefused (warn w) := fun _ _ _ _ h => nomatch h
      cases p <;> simp only [echoCheckFrom] <;> split
      · exact ih
      · exact (hwarn _).bind fun _ => ih
      · exact ih
      · exact hraise _
      · exact ih
      · exact hraise _

theorem neverRefused_asyncEndSequence : NeverRefused asyncEndSequence := by
  have hcfg : NeverRefused getCfg := fun _ _ _ h => nomatch h
  refine ((neverRefused_transact 1 (by decide)).bind fun _ => .pure ()).bind fun _ => ?_
  refine ((neverRefused_transact 2 (by decide)).bind fun _ => .pure _).bind fun b => ?_
  refine (neverRefused_transact 2 ?_).bind fun _ => hcfg.bind fun _ => neverRefused_echoCheckFrom _ _ _ _ _
  rw [legalFrame_writeBurst]
  rfl

theorem neverRefused_closeBlock : NeverRefused closeBlock := by
  have hlife : NeverRefused getLife := fun _ _ _ h => nomatch h
  have hset : ∀ l, NeverRefused (setLife l) := fun _ _ _ _ h => nomatch h
  refine hlife.bind fun l => ?_
  cases l with
  | closed => exact .pure _
  | ready | faulted => exact (hset _).bind fun _ => .pure _
  | asyncTx => exact neverRefused_asyncEndSequence.bind fun _ => (hset _).bind fun _ => .pure _

/-- Every lifecycle state accepts `Close`. -/
theorem exec_closeOp (s : State) : exec .closeOp s = .next (finish .closeOp (closeBlock (s.started .closeOp))) :=
  if_pos ((accepts_iff _ _).2 (by cases s.life <;> simp [acceptedByR25]))

theorem closeOp_not_refused {s t : State} {o : OpOutcome} (h : exec .closeOp s = .next t)
    (ho : t.trace.getLast? = some (.opEnd o)) (r : RefuseReason) : o ≠ .refused r := by
  rintro rfl
  rw [exec_closeOp] at h
  cases h
  cases hb : closeBlock (s.started .closeOp) with
  | ok v u => rw [hb] at ho; simp [finish] at ho
  | error e u =>
      cases e with
      | err e => rw [hb] at ho; simp [finish] at ho
      | refuse r => exact neverRefused_closeBlock _ _ _ hb

/-! ### The table -/

/-- The last column of R25's table for an accepted operation. -/
theorem exec_lifeAfter {i : Instr} {s t : State} {o : OpOutcome} (hacc : acceptedByR25 s.life i)
    (h : exec i s = .next t) (ho : t.trace.getLast? = some (.opEnd o)) :
    t.life = lifeAfter s.life i o ∧ ∀ c l, o ≠ .refused (.wrongState c l) := by
  rcases exec_cases i s with ⟨ha, -⟩ | ⟨-, ⟨u, v, hpath, he⟩ | ⟨u', u, e, hpath, hstop, he⟩ | ⟨u, b, n, hpath, he⟩⟩
  · simp [(accepts_iff _ _).2 hacc] at ha
  · cases he.symm.trans h
    obtain rfl : .ok v = o := by simpa using ho
    exact ⟨by rw [lifeAfter_ok]; exact congrArg (endLife i) hpath.life, by simp⟩
  · cases he.symm.trans h
    obtain rfl : .err ⟨i, e⟩ = o := by simpa using ho
    exact ⟨by rw [lifeAfter_err, State.takeError_life, hstop.life, hpath.life, State.started_life], by simp⟩
  · cases he.symm.trans h
    obtain rfl : .refused (.illegalForm b n) = o := by simpa using ho
    have hclose : i ≠ .closeOp := by
      rintro rfl
      exact closeOp_not_refused h ho _ rfl
    exact ⟨by rw [lifeAfter_refused hacc hclose, State.refuse_life, hpath.life, State.started_life], by simp⟩

/-- Outside ASYNC_TX `Close` only sets the lifecycle state (43_lifecycle.md R286). -/
theorem closeBlock_of_ne_asyncTx {s : State} (h : s.life ≠ .asyncTx) :
    closeBlock s = .ok .unit { s with life := .closed } := by
  rw [closeBlock_eq]
  have hcore : closeCore s = .ok .unit s := by
    simp [closeCore, Bind.bind, EStateM.bind, getLife, h, Pure.pure, EStateM.pure]
  simp only [thenLife, hcore, endLife]

/-- Settles O11: the refusals by the envelope, the state left by `exec_cases`, and `Close` without its end sequence. -/
theorem lifecycleTable : Obligations.LifecycleTable := by
  refine ⟨fun i s => exec_refuses_wrongState, fun i s t o => exec_lifeAfter, fun s t hlife h => ?_⟩
  rw [exec_closeOp, closeBlock_of_ne_asyncTx (s := s.started .closeOp) hlife] at h
  cases h
  rw [newEvents_eq (ev := [.opStart (.op .closeOp), .opEnd (.ok .unit)]) (by simp [finish])]
  rfl

end Sys2Proof.Machine
end

section
/-! SUPPORT. What a getter logs, and the proof of GettersOnlyRead (10_state.md R29; 41_register_fields.md R199;
40_bus_codec.md R122 to R125). -/

namespace Sys2Proof.Machine

/-- An event a getter may log: a transfer only of a read frame, an error only of kind LENGTH, no warning. -/
def isGetterEvent : Event → Bool
  | .xfer tx _ => isReadFrame tx
  | .errorRaised e => decide (e.info.kind = .length)
  | .warning _ => false
  | _ => true

/-- From `s` to `t` only events a getter may log are logged. -/
def ReadsTo (s t : State) : Prop := ∃ ev, t.trace = s.trace ++ ev ∧ ∀ e ∈ ev, isGetterEvent e = true

/-- The ends of a getter's body. -/
def ReadEnds {α : Type} (s : State) : EStateM.Result Abort State α → Prop
  | .ok _ t => ReadsTo s t
  | .error (.err e) t => ReadsTo s t ∧ e.kind = .length
  | .error (.refuse _) t => ReadsTo s t

/-- From every state the body ends as a getter's does. -/
def OnlyReads {α : Type} (x : Op α) : Prop := ∀ s, ReadEnds s (x s)

variable {α β : Type} {s t u : State}

theorem ReadsTo.refl (s : State) : ReadsTo s s := ⟨[], by simp, by simp⟩

theorem ReadsTo.trans (h : ReadsTo s t) (h' : ReadsTo t u) : ReadsTo s u := by
  obtain ⟨ev, ht, hev⟩ := h
  obtain ⟨ev', hu, hev'⟩ := h'
  exact ⟨ev ++ ev', by rw [hu, ht, List.append_assoc], fun e he => (List.mem_append.1 he).elim (hev e) (hev' e)⟩

theorem readsTo_emit (s : State) {e : Event} (he : isGetterEvent e = true) : ReadsTo s (s.emit e) :=
  ⟨[e], rfl, by simpa using he⟩

theorem readsTo_xferred (s : State) {tx : Bytes} (h : isReadFrame tx = true) : ReadsTo s (s.xferred tx) :=
  ⟨[.xfer tx (s.reply tx)], rfl, by simpa [isGetterEvent] using h⟩

theorem readsTo_transacted (s : State) {tx : Bytes} (h : isReadFrame tx = true) : ReadsTo s (s.transacted tx) :=
  (readsTo_xferred s h).trans ⟨[.statusObserved (byteAt (s.reply tx) 0)], rfl, by simp [isGetterEvent]⟩

theorem OnlyReads.pure (a : α) : OnlyReads (Pure.pure a : Op α) := ReadsTo.refl

theorem OnlyReads.bind {x : Op α} {f : α → Op β} (hx : OnlyReads x) (hf : ∀ a, OnlyReads (f a)) :
    OnlyReads (x >>= f) := by
  intro s
  have hs := hx s
  simp only [Bind.bind, EStateM.bind]
  cases hxs : x s with
  | error e t =>
      rw [hxs] at hs
      cases e <;> exact hs
  | ok a t =>
      rw [hxs] at hs
      have ht := hf a t
      simp only
      cases hft : f a t with
      | ok b u => rw [hft] at ht; exact ReadsTo.trans hs ht
      | error e u =>
          rw [hft] at ht
          cases e with
          | err e => exact ⟨ReadsTo.trans hs ht.1, ht.2⟩
          | refuse r => exact ReadsTo.trans hs ht

theorem onlyReads_getCfg : OnlyReads getCfg := ReadsTo.refl

/-- The one error a transfer itself raises is LENGTH (40_bus_codec.md R120). -/
theorem onlyReads_transact {tx : Bytes} (n : Nat) (h : isReadFrame tx = true) : OnlyReads (transact tx n) := by
  intro s
  unfold transact
  split_ifs
  · exact readsTo_transacted s h
  · exact ⟨readsTo_xferred s h, rfl⟩
  · exact ReadsTo.refl s

/-! ### The shared reads -/

/-- A frame of a read mode has its R/W bit set (30_encoding.md R81). -/
theorem isReadFrame_header (a : Addr6) (data : Bytes) :
    isReadFrame (header .readSingle a :: data) = true ∧ isReadFrame (header .readBurst a :: data) = true := by
  simp only [isReadFrame, byteAt, List.getD_cons_zero]
  revert a
  decide

theorem onlyReads_readSingle (a : Addr6) : OnlyReads (readSingle a) :=
  (onlyReads_transact _ (isReadFrame_header a _).1).bind fun _ => .pure _

theorem onlyReads_readBurst (a : Addr6) (n : Nat) : OnlyReads (readBurst a n) :=
  (onlyReads_transact _ (isReadFrame_header a _).2).bind fun _ => .pure _

theorem onlyReads_readStatusAt (a : Addr6) : OnlyReads (readStatusAt a) :=
  (onlyReads_transact _ (isReadFrame_header a _).2).bind fun _ => .pure _

theorem onlyReads_fieldGet (f : Field) : OnlyReads (fieldGet f) := (onlyReads_readSingle _).bind fun _ => .pure _

theorem onlyReads_getFrequencyWord : OnlyReads getFrequencyWord := (onlyReads_readBurst _ _).bind fun _ => .pure _

theorem onlyReads_getSymbolRateFP : OnlyReads getSymbolRateFP := (onlyReads_readBurst _ _).bind fun _ => .pure _

theorem onlyReads_getFilterBandwidthFP : OnlyReads getFilterBandwidthFP :=
  (onlyReads_readSingle _).bind fun _ => .pure _

/-! ### Host operations -/

/-- The envelope adds an OpStart, the error's event and an OpEnd (10_state.md R24). -/
theorem OnlyReads.runOp {i : Instr} {x : Op Value} (hx : OnlyReads x) (h : runOp i x s = .next t) : ReadsTo s t := by
  have hstart : ReadsTo s (s.started i) := readsTo_emit s rfl
  unfold Machine.runOp at h
  split at h <;> cases h
  · have hbody := hx (s.started i)
    refine hstart.trans ?_
    cases hr : x (s.started i) with
    | ok v u =>
        rw [hr] at hbody
        exact ReadsTo.trans hbody (readsTo_emit u rfl)
    | error e u =>
        rw [hr] at hbody
        cases e with
        | err e =>
            have hraise : ReadsTo u (u.takeError ⟨i, e⟩) := ⟨_, rfl, by simp [isGetterEvent, hbody.2]⟩
            exact hbody.1.trans hraise
        | refuse r => exact ReadsTo.trans hbody ⟨_, rfl, by simp [isGetterEvent]⟩
  · exact hstart.trans ⟨_, rfl, by simp [isGetterEvent]⟩

/-- Every getter is the envelope of reads. -/
theorem exec_readsTo {i : Instr} (hi : isGetter i = true) (h : exec i s = .next t) : ReadsTo s t := by
  cases i with
  | rd1 a => exact OnlyReads.runOp ((onlyReads_readSingle a).bind fun _ => .pure _) h
  | rdb a n => exact OnlyReads.runOp ((onlyReads_readBurst a n).bind fun _ => .pure _) h
  | rdbPatable n | rdbRxFifo n => exact OnlyReads.runOp ((onlyReads_readBurst _ n).bind fun _ => .pure _) h
  | getSyncWord | getPatable => exact OnlyReads.runOp ((onlyReads_readBurst _ _).bind fun _ => .pure _) h
  | rds a => exact OnlyReads.runOp ((onlyReads_readStatusAt a).bind fun _ => .pure _) h
  | rdsPartnum | rdsVersion | rdsFreqest | rdsLqi | rdsRssi | rdsMarcstate | rdsWortime1 | rdsWortime0 | rdsPktstatus
  | rdsVcoVcDac | rdsTxbytes | rdsRxbytes | rdsRcctrl1Status | rdsRcctrl0Status | getMarcstate =>
      exact OnlyReads.runOp ((onlyReads_readStatusAt _).bind fun _ => .pure _) h
  | getFrequencyWord => exact OnlyReads.runOp (onlyReads_getFrequencyWord.bind fun _ => .pure _) h
  | getSymbolRateFP => exact OnlyReads.runOp (onlyReads_getSymbolRateFP.bind fun _ => .pure _) h
  | getFilterBandwidthFP => exact OnlyReads.runOp (onlyReads_getFilterBandwidthFP.bind fun _ => .pure _) h
  | getBaseFrequencyHz =>
      exact OnlyReads.runOp
        ((onlyReads_getFrequencyWord.bind fun _ => onlyReads_getCfg.bind fun _ => .pure _).bind fun _ => .pure _) h
  | getSymbolRateBaud =>
      exact OnlyReads.runOp
        ((onlyReads_getSymbolRateFP.bind fun _ => onlyReads_getCfg.bind fun _ => .pure _).bind fun _ => .pure _) h
  | getFilterBandwidthHz =>
      exact OnlyReads.runOp
        ((onlyReads_getFilterBandwidthFP.bind fun _ => onlyReads_getCfg.bind fun _ => .pure _).bind fun _ => .pure _) h
  | getSyncMode => exact OnlyReads.runOp (((onlyReads_readSingle _).bind fun _ => .pure _).bind fun _ => .pure _) h
  | getPacketLength => exact OnlyReads.runOp ((onlyReads_readSingle _).bind fun _ => .pure _) h
  | getModulationFormat | getPreambleLength | getPacketLengthMode | getTransceiveMode =>
      exact OnlyReads.runOp (((onlyReads_fieldGet _).bind fun _ => .pure _).bind fun _ => .pure _) h
  | getChecksumEnabled | getDataWhiteningEnabled | getManchesterEnabled | getPAIndex | getCalibrationOnWake =>
      exact OnlyReads.runOp ((onlyReads_fieldGet _).bind fun _ => .pure _) h
  | getOutputPower =>
      exact OnlyReads.runOp (((onlyReads_readBurst _ _).bind fun _ => (onlyReads_fieldGet _).bind fun _ =>
        .pure _).bind fun _ => .pure _) h
  | _ => cases hi

theorem mem_framesIn {tr : List Event} {tx : Bytes} (h : tx ∈ framesIn tr) : ∃ rx, Event.xfer tx rx ∈ tr := by
  obtain ⟨e, he, hx⟩ := List.mem_filterMap.1 h
  split at hx
  · cases hx
    exact ⟨_, he⟩
  · cases hx

/-- Settles O23: every event of a getter is one a getter may log. -/
theorem gettersOnlyRead : Obligations.GettersOnlyRead := by
  intro i s t hi h
  obtain ⟨ev, htrace, hev⟩ := exec_readsTo hi h
  rw [newEvents_eq htrace]
  refine ⟨fun tx htx => ?_, fun w hw => ?_, fun e he => ?_⟩
  · obtain ⟨rx, hx⟩ := mem_framesIn htx
    exact hev _ hx
  · exact Bool.noConfusion (hev _ hw)
  · exact of_decide_eq_true (hev _ he)

end Sys2Proof.Machine
end

section
/-! SUPPORT. What every answer of the oracle keeps, every operation keeps, and the proof of StepKeepsMemoriesCanonical
(20_memory.md R70; log entry 12). -/

namespace Sys2Proof.Machine

/-- Every answer of the oracle keeps the property (10_state.md R21). -/
structure KeptByAnswers (Q : Environment → Prop) : Prop where
  spi : ∀ {env : Environment} (tr : List Event) (tx : Bytes), Q env → Q (env.answerSpi tr tx).2
  gpio : ∀ {env : Environment} (tr : List Event) (t : Timeout), Q env → Q (env.answerGpio tr t).2

/-- The response is what an oracle with the property answers to the frame. -/
def AnsweredBy (Q : Environment → Prop) (tx rx : Bytes) : Prop :=
  ∃ (env : Environment) (tr : List Event), Q env ∧ rx = (env.answerSpi tr tx).1

variable {Q : Environment → Prop} {P : Interaction → Prop} {i : Instr} {s t : State}

/-- Interactions keep the property, and every transfer among them was answered by an oracle that had it. -/
theorem KeptByAnswers.interact (hQ : KeptByAnswers Q) {p : EchoPolicy} :
    ∀ {ix : List Interaction} {env env' : Environment} {tr tr' : List Event},
      interact p env tr ix = some (env', tr') → Q env →
      Q env' ∧ ∀ tx rx, Interaction.spi tx rx ∈ ix → AnsweredBy Q tx rx
  | [], _, _, _, _, h, henv => by cases h; exact ⟨henv, by simp⟩
  | .spi tx rx :: ix, env, _, tr, _, h, henv => by
      simp only [Machine.interact] at h
      split at h
      · rename_i hr
        obtain ⟨hend, hix⟩ := hQ.interact h (hQ.spi tr tx henv)
        refine ⟨hend, fun tx' rx' hx => ?_⟩
        rcases List.mem_cons.1 hx with hx | hx
        · cases hx
          exact ⟨env, tr, henv, hr.1.symm⟩
        · exact hix tx' rx' hx
      · cases h
  | .gpio tm r :: ix, _, _, tr, _, h, henv => by
      simp only [Machine.interact] at h
      split at h
      · exact (hQ.interact h (hQ.gpio tr tm henv)).imp id fun hix tx rx hx => hix tx rx (by simpa using hx)
      · cases h
  | .note w :: ix, _, _, _, _, h, henv => by
      simp only [Machine.interact] at h
      exact (hQ.interact h henv).imp id fun hix tx rx hx => hix tx rx (by simpa using hx)

theorem Path.keeps (hQ : KeptByAnswers Q) (h : Path P s t) (hs : Q s.env) : Q t.env := by
  obtain ⟨ix, env, tr, hi, -, -, rfl⟩ := h
  exact (hQ.interact hi hs).1

theorem Stops.keeps {e : ErrorInfo} (hQ : KeptByAnswers Q) (h : Stops P e s t) (hs : Q s.env) : Q t.env := by
  cases h with
  | check => exact hs
  | length | echo => exact hQ.spi _ _ hs

/-- Whichever way an operation ends, its oracle has the property still. -/
theorem exec_keeps (hQ : KeptByAnswers Q) (hs : Q s.env) (h : exec i s = .next t) : Q t.env := by
  rcases exec_cases i s with ⟨-, he⟩ | ⟨-, ⟨u, v, hpath, he⟩ | ⟨u', u, e, hpath, hstop, he⟩ | ⟨u, b, n, hpath, he⟩⟩ <;>
    cases he.symm.trans h
  · exact hs
  · have hu : Q u.env := hpath.keeps hQ hs
    exact hu
  · have hu : Q u.env := hstop.keeps hQ (hpath.keeps hQ hs)
    exact hu
  · have hu : Q u.env := hpath.keeps hQ hs
    exact hu

theorem step_keeps (hQ : KeptByAnswers Q) (hs : Q s.env) (h : step s = .next t) : Q t.env := by
  obtain ⟨c, u, -, hrun, rfl⟩ := step_cases h
  rcases runCall_cases c s with ⟨i, -, he⟩ | ⟨b, data, -, -, -, he⟩
  · have hu : Q u.env := exec_keeps hQ hs (he.symm.trans hrun)
    exact hu
  · cases he.symm.trans hrun
    rw [refuseRaw_eq]
    exact hs

theorem keptByAnswers_wf : KeptByAnswers fun env => env.wf = true :=
  ⟨fun tr tx h => Environment.answerSpi_wf h tr tx, fun tr t h => Environment.answerGpio_wf h tr t⟩

/-- Settles O25: every answer of the oracle keeps its memories canonical, and a step changes the oracle by nothing but
its answers. -/
theorem stepKeepsMemoriesCanonical : Obligations.StepKeepsMemoriesCanonical := fun _ _ hs hstep =>
  step_keeps keptByAnswers_wf hs hstep

end Sys2Proof.Machine
end

section
/-! SUPPORT. The protocol under the reference responder, and the proof of ResponderKeepsProtocol: every response has its
frame's length and a burst write is answered by status bytes alone (20_memory.md R71; 40_bus_codec.md R120, R121). -/

namespace Sys2Proof.Machine

/-! ### The responder stays one, with its status byte -/

/-- The oracle is a reference responder with this status byte. -/
def RespondsWith (st : Byte) (env : Environment) : Prop := ∃ r, env = .responder r ∧ r.status = st

theorem Responder.strobe_status (r : Responder) (c : StrobeCmd) : (r.strobe c).status = r.status := by
  cases c with
  | srx => simp only [Responder.strobe]; split <;> rfl
  | _ => rfl

theorem Responder.effect_status (r : Responder) (f : Form) (data : Bytes) : (r.effect f data).status = r.status := by
  obtain ⟨m, a, n⟩ := f
  cases m with
  | readSingle => rfl
  | readBurst => simp only [Responder.effect]; split <;> rfl
  | writeBurst => simp only [Responder.effect]; split_ifs <;> rfl
  | writeSingle =>
      simp only [Responder.effect]
      split
      · exact r.strobe_status _
      · rfl

theorem Responder.answer_status (r : Responder) (tx : Bytes) : (r.answer tx).2.status = r.status := by
  cases tx with
  | nil => rfl
  | cons h data =>
      simp only [Responder.answer]
      split
      · exact r.effect_status _ _
      · rfl

theorem keptByAnswers_respondsWith (st : Byte) : KeptByAnswers (RespondsWith st) where
  spi := by
    rintro _ tr tx ⟨r, rfl, hst⟩
    exact ⟨_, rfl, (r.answer_status tx).trans hst⟩
  gpio := by
    rintro _ tr t ⟨r, rfl, hst⟩
    simp only [Environment.answerGpio]
    split
    · exact ⟨_, rfl, hst⟩
    · exact ⟨r, rfl, hst⟩

/-! ### What the responder answers -/

/-- A burst write is answered by status bytes alone (20_memory.md R71). -/
theorem Responder.answer_writeBurst (r : Responder) {tx : Bytes} (hm : headerMode (byteAt tx 0) = .writeBurst) :
    (r.answer tx).1 = List.replicate tx.length r.status := by
  cases tx with
  | nil => rfl
  | cons h data =>
      have hform : (formOf h data).mode = .writeBurst := hm
      simp only [Responder.answer]
      split
      · simp only [Responder.data, hform]
        rfl
      · rfl

variable {st : Byte} {tx rx : Bytes}

theorem AnsweredBy.length_eq (h : AnsweredBy (RespondsWith st) tx rx) : rx.length = tx.length := by
  obtain ⟨_, tr, ⟨r, rfl, -⟩, rfl⟩ := h
  exact r.answer_length tx

theorem AnsweredBy.eq_replicate (h : AnsweredBy (RespondsWith st) tx rx)
    (hm : headerMode (byteAt tx 0) = .writeBurst) : rx = List.replicate tx.length st := by
  obtain ⟨_, tr, ⟨r, rfl, rfl⟩, rfl⟩ := h
  exact r.answer_writeBurst hm

theorem byteAt_replicate {n k : Nat} (b : Byte) (h : k < n) : byteAt (List.replicate n b) k = b := by
  simp [byteAt, h]

/-- No echo byte of the responder differs from its status byte. -/
theorem AnsweredBy.echoWarnings_eq_nil (h : AnsweredBy (RespondsWith st) tx rx) (p : EchoPolicy) :
    echoWarnings p tx rx = [] := by
  unfold echoWarnings
  split
  · rename_i hwrite
    rw [h.eq_replicate hwrite.2, List.map_eq_nil_iff, List.filter_eq_nil_iff]
    intro k hk
    have hk' : k < tx.length - 1 := by simpa using hk
    rw [byteAt_replicate st (by omega), byteAt_replicate st (by omega)]
    simp
  · rfl

/-! ### What an operation logs -/

/-- An event that breaks no protocol: of the protocol errors only SHORT_RX, of the warnings only the frequency one. -/
def Event.keepsProtocol : Event → Prop
  | .errorRaised e => kindClass e.info.kind = .protocolError → e.info.kind = .shortRx
  | .warning w => ∃ hz, w = .frequencyBelowTxFloor hz
  | _ => True

/-- From `s` to `t` only events that break no protocol are logged. -/
def KeepsProtocol (s t : State) : Prop := ∃ ev, t.trace = s.trace ++ ev ∧ ∀ e ∈ ev, e.keepsProtocol

variable {P : Interaction → Prop} {i : Instr} {s t u : State} {e : ErrorInfo}

theorem KeepsProtocol.trans (h : KeepsProtocol s t) (h' : KeepsProtocol t u) : KeepsProtocol s u := by
  obtain ⟨ev, ht, hev⟩ := h
  obtain ⟨ev', hu, hev'⟩ := h'
  exact ⟨ev ++ ev', by rw [hu, ht, List.append_assoc], fun e he => (List.mem_append.1 he).elim (hev e) (hev' e)⟩

/-- The interactions an operation may have log no warning of the echo check under the responder. -/
theorem Path.keepsProtocol (h : Path (allowedBy i) s t) (hs : RespondsWith st s.env) : KeepsProtocol s t := by
  obtain ⟨ix, env, tr, hi, hallowed, -, rfl⟩ := h
  refine ⟨_, interact_trace hi, fun e he => ?_⟩
  obtain ⟨x, hx, hev⟩ := List.mem_flatMap.1 he
  cases x with
  | spi tx rx =>
      have hanswer := ((keptByAnswers_respondsWith st).interact hi hs).2 tx rx hx
      rw [Interaction.events, hanswer.echoWarnings_eq_nil] at hev
      simp only [List.append_nil, List.mem_cons, List.not_mem_nil, or_false] at hev
      rcases hev with rfl | rfl <;> trivial
  | gpio tm r => cases List.mem_singleton.1 hev; trivial
  | note w =>
      cases List.mem_singleton.1 hev
      obtain ⟨hz, -, hw⟩ := hallowed _ hx
      exact ⟨hz, hw⟩

theorem Stops.keepsProtocol (h : Stops P e s t) : KeepsProtocol s t := by
  cases h with
  | check => exact ⟨[], by simp, by simp⟩
  | length tx => exact ⟨_, (growsBy_xferred s tx).trace, by simp [Event.keepsProtocol]⟩
  | echo tx => exact ⟨_, (growsBy_transacted s tx).trace, by simp [Event.keepsProtocol]⟩

/-- The kinds of ProtocolError (60_exceptions.md R353). -/
theorem kind_of_protocolError {k : ErrorKind} (h : kindClass k = .protocolError) :
    k = .length ∨ k = .echo ∨ k = .shortRx := by
  cases k <;> simp [kindClass] at h ⊢

/-- Under the responder no operation stops at a response's length or at an echo byte, so of the protocol errors SHORT_RX
is left. -/
theorem Stops.kind_eq_shortRx (h : Stops P e s t) (hs : RespondsWith st s.env)
    (hpolicy : s.cfg.echoPolicy = .match0F → st = 0x0F) (hclass : kindClass e.kind = .protocolError) :
    e.kind = .shortRx := by
  have hanswer : ∀ tx, AnsweredBy (RespondsWith st) tx (s.reply tx) := fun tx => ⟨_, _, hs, rfl⟩
  cases h with
  | check hlength hecho => exact ((kind_of_protocolError hclass).resolve_left hlength).resolve_left hecho
  | length tx hl hp hn => exact absurd (hanswer tx).length_eq hn
  | echo tx k want hl hp hm hn hwant hk hj hb =>
      have hreply := (hanswer tx).eq_replicate hm
      have hstatus : ∀ j < tx.length, byteAt (s.reply tx) j = st := fun j hj => by
        rw [hreply, byteAt_replicate st hj]
      refine absurd ?_ hb
      rw [hstatus _ hk]
      rw [hstatus 0 (by omega)] at hwant
      cases hq : s.cfg.echoPolicy with
      | advisory => rw [hq] at hwant; cases hwant
      | matchStatus => rw [hq] at hwant; cases hwant; rfl
      | match0F => rw [hq] at hwant; cases hwant; exact hpolicy hq

theorem exec_keepsProtocol (hs : RespondsWith st s.env) (hpolicy : s.cfg.echoPolicy = .match0F → st = 0x0F)
    (h : exec i s = .next t) : KeepsProtocol s t := by
  have hstart : KeepsProtocol s (s.started i) := ⟨_, rfl, by simp [Event.keepsProtocol]⟩
  rcases exec_cases i s with ⟨-, he⟩ | ⟨-, ⟨u, v, hpath, he⟩ | ⟨u', u, e, hpath, hstop, he⟩ | ⟨u, b, n, hpath, he⟩⟩ <;>
    cases he.symm.trans h
  · exact hstart.trans ⟨_, rfl, by simp [Event.keepsProtocol]⟩
  · have hu : KeepsProtocol s u := hstart.trans (hpath.keepsProtocol hs)
    exact hu.trans ⟨_, rfl, by simp [Event.keepsProtocol]⟩
  · have hu : KeepsProtocol s u := (hstart.trans (hpath.keepsProtocol hs)).trans hstop.keepsProtocol
    have hkind := hstop.kind_eq_shortRx (hpath.keeps (keptByAnswers_respondsWith st) hs)
      (by rw [hpath.cfg]; exact hpolicy)
    exact hu.trans ⟨_, rfl, by simpa [Event.keepsProtocol] using hkind⟩
  · have hu : KeepsProtocol s u := hstart.trans (hpath.keepsProtocol hs)
    exact hu.trans ⟨_, rfl, by simp [Event.keepsProtocol]⟩

/-- Settles O56: the responder's answers keep its status byte, and the events of an operation break no protocol. -/
theorem responderKeepsProtocol : Obligations.ResponderKeepsProtocol := by
  intro i s t r henv hpolicy h
  have hs : RespondsWith r.status s.env := ⟨r, henv, rfl⟩
  obtain ⟨ev, htrace, hev⟩ := exec_keepsProtocol hs hpolicy h
  rw [newEvents_eq htrace]
  exact ⟨exec_keeps (keptByAnswers_respondsWith _) hs h, fun e he => hev _ he, fun w hw => hev _ hw⟩

end Sys2Proof.Machine
end

section
/-! SUPPORT. The reference responder's answers, form by form, and the proofs of ResponderWrites, ResponderReads,
ResponderStrobes and ResponderAtCreation (20_memory.md R52, R55, R57, R70 to R72). -/

namespace Sys2Proof.Machine

/-- A burst read is the bytes at the addresses from `a` on (20_memory.md R57). -/
theorem memReadBytes_eq_map (k : Bank) (m : Memory) : ∀ a n : Nat,
    memReadBytes k m a n = (List.range n).map fun j => memRead k m (a + j)
  | _, 0 => rfl
  | a, n + 1 => by
      rw [memReadBytes, memReadBytes_eq_map k m (a + 1) n, List.range_succ_eq_map, List.map_cons, List.map_map]
      simp [Function.comp_def, Nat.add_assoc, Nat.add_comm 1]

/-- The popped bytes are the oldest, zero for each missing one (20_memory.md R71). -/
theorem popBytes_eq_map (n : Nat) (q : Bytes) : popBytes n q = (List.range n).map fun j => q.getD j 0x00 := by
  refine List.ext_getElem (by simp) fun j hj hj' => ?_
  have hjn : j < n := by simpa using hj
  simp only [popBytes, List.getElem_take, List.getElem_map, List.getElem_range]
  by_cases hq : j < q.length
  · simp [hq]
  · rw [List.getElem_append_right (by omega)]
    simp [hq]

theorem queueCount_of_le {len : Nat} (h : len ≤ 255) : queueCount len = BitVec.ofNat 8 len := if_pos h

/-- Nothing listed reads as the reset column of 20_memory.md R52 (log entry 12). -/
theorem config_nil_reads : (List.range 47).map (memRead .config []) = registersAtReset := by decide

/-- Nothing listed reads as the table of 20_memory.md R55 (log entry 12). -/
theorem patable_nil_reads : (List.range 8).map (memRead .patable []) = tableAtReset := by decide

/-! ### Legal forms -/

theorem legalForm_patable {m : Mode} {n : Nat} (hm : m = .readBurst ∨ m = .writeBurst) (h1 : 1 ≤ n) (h8 : n ≤ 8) :
    legalForm ⟨m, patableAddr, n⟩ = true := by
  rcases hm with rfl | rfl <;> simp [legalForm, patableAddr, patableEntries, h1, h8]

theorem legalForm_fifo {m : Mode} {n : Nat} (hm : m = .readBurst ∨ m = .writeBurst) (h1 : 1 ≤ n) :
    legalForm ⟨m, fifoAddr, n⟩ = true := by
  rcases hm with rfl | rfl <;> simp [legalForm, fifoAddr, h1]

theorem legalForm_config {m : Mode} {a : Addr6} {n : Nat} (hm : m = .readBurst ∨ m = .writeBurst) (h1 : 1 ≤ n)
    (ha : a.toNat + n - 1 ≤ 0x2E) : legalForm ⟨m, a, n⟩ = true := by
  have hrow : a.toNat ≤ 0x2E ∧ 1 ≤ n ∧ a.toNat + n - 1 ≤ 0x2E := ⟨by omega, h1, ha⟩
  rcases hm with rfl | rfl <;> simp [legalForm, hrow]

theorem ne_patableAddr_of_config {a : Addr6} (ha : a.toNat ≤ 0x2E) : a ≠ patableAddr := by
  rintro rfl
  exact absurd ha (by decide)

theorem ne_fifoAddr_of_config {a : Addr6} (ha : a.toNat ≤ 0x2E) : a ≠ fifoAddr := by
  rintro rfl
  exact absurd ha (by decide)

/-! ### Answers -/

section

variable (r : Responder)

theorem Responder.answer_header {m : Mode} {a : Addr6} {data : Bytes} (hl : legalForm ⟨m, a, data.length⟩ = true) :
    r.answer (header m a :: data) = (r.status :: r.data ⟨m, a, data.length⟩, r.effect ⟨m, a, data.length⟩ data) := by
  rw [r.answer_legal (by rwa [formOf_header]), formOf_header]

/-- Every strobe is answered by the status byte and has its effect (20_memory.md R71, R72). -/
theorem Responder.answer_strobe (c : StrobeCmd) : r.answer [header .writeSingle c.address] = ([r.status], r.strobe c) := by
  rw [r.answer_header (by cases c <;> rfl)]
  simp [Responder.data, Responder.effect]

/-- No status address is one of a configuration register, PATABLE or the FIFO (20_memory.md R52 to R56). -/
theorem statusAddress_outside_banks (sr : StatusReg) :
    ¬sr.address.toNat ≤ 0x2E ∧ sr.address ≠ patableAddr ∧ sr.address ≠ fifoAddr := by
  cases sr <;> decide

/-- A status read gives the register's byte and changes nothing (20_memory.md R71). -/
theorem Responder.answer_statusRead (sr : StatusReg) :
    r.answer [header .readBurst sr.address, 0x00] = ([r.status, r.statusByte sr], r) := by
  rw [r.answer_header (by cases sr <;> rfl)]
  simp [Responder.data, Responder.effect, statusAddress_outside_banks sr]

theorem Responder.answer_readSingle {a : Addr6} (ha : a.toNat ≤ 0x2E) :
    r.answer [header .readSingle a, 0x00] = ([r.status, memRead .config r.regs a.toNat], r) := by
  rw [r.answer_header (by simpa [legalForm] using ha)]
  rfl

theorem Responder.answer_readConfig {a : Addr6} {n : Nat} (h1 : 1 ≤ n) (ha : a.toNat + n - 1 ≤ 0x2E) :
    r.answer (header .readBurst a :: List.replicate n 0x00) =
      (r.status :: memReadBytes .config r.regs a.toNat n, r) := by
  have hconfig : a.toNat ≤ 0x2E := by omega
  rw [r.answer_header (by rw [List.length_replicate]; exact legalForm_config (.inl rfl) h1 ha)]
  simp [Responder.data, Responder.effect, hconfig, ne_fifoAddr_of_config hconfig]

theorem Responder.answer_readPatable {n : Nat} (h1 : 1 ≤ n) (h8 : n ≤ 8) :
    r.answer (header .readBurst patableAddr :: List.replicate n 0x00) =
      (r.status :: memReadBytes .patable r.patable 0 n, r) := by
  rw [r.answer_header (by rw [List.length_replicate]; exact legalForm_patable (.inl rfl) h1 h8)]
  simp [Responder.data, Responder.effect, patableAddr, fifoAddr]

/-- An RX FIFO read leaves the bytes it did not take, and RR idle when there are none (20_memory.md R71). -/
theorem Responder.popRx_eq (n : Nat) :
    r.popRx n = { r with rxq := r.rxq.drop n, marc := if r.rxq.length ≤ n then 0x01 else r.marc } := by
  simp [Responder.popRx, marcIdle, List.drop_eq_nil_iff]

theorem Responder.answer_readRxFifo {n : Nat} (h1 : 1 ≤ n) :
    r.answer (header .readBurst fifoAddr :: List.replicate n 0x00) = (r.status :: popBytes n r.rxq, r.popRx n) := by
  rw [r.answer_header (by rw [List.length_replicate]; exact legalForm_fifo (.inl rfl) h1)]
  simp [Responder.data, Responder.effect, patableAddr, fifoAddr]

theorem Responder.answer_writeConfig {a : Addr6} {v : Bytes} (h1 : 1 ≤ v.length) (ha : a.toNat + v.length - 1 ≤ 0x2E) :
    r.answer (header .writeBurst a :: v) =
      (List.replicate (v.length + 1) r.status, { r with regs := memWriteBytes .config r.regs a.toNat v }) := by
  have hconfig : a.toNat ≤ 0x2E := by omega
  rw [r.answer_header (legalForm_config (.inr rfl) h1 ha)]
  simp [Responder.data, Responder.effect, ne_patableAddr_of_config hconfig, ne_fifoAddr_of_config hconfig,
    List.replicate_succ]

theorem Responder.answer_writePatable {v : Bytes} (h1 : 1 ≤ v.length) (h8 : v.length ≤ 8) :
    r.answer (header .writeBurst patableAddr :: v) =
      (List.replicate (v.length + 1) r.status, { r with patable := memWriteBytes .patable r.patable 0 v }) := by
  rw [r.answer_header (legalForm_patable (.inr rfl) h1 h8)]
  simp [Responder.data, Responder.effect, List.replicate_succ]

theorem Responder.answer_writeTxFifo {v : Bytes} (h1 : 1 ≤ v.length) :
    r.answer (header .writeBurst fifoAddr :: v) =
      (List.replicate (v.length + 1) r.status, { r with txq := r.txq ++ v }) := by
  rw [r.answer_header (legalForm_fifo (.inr rfl) h1)]
  simp [Responder.data, Responder.effect, patableAddr, fifoAddr, List.replicate_succ]

end

/-! ### The statements -/

/-- Settles O53: each write by its answer, each bank read back after the bytes written. -/
theorem responderWrites : Obligations.ResponderWrites := by
  intro r hregs hpatable
  refine ⟨fun a v h1 ha => ⟨_, r.answer_writeConfig h1 ha, fun x => ?_⟩, fun v h1 h8 =>
    ⟨_, r.answer_writePatable h1 h8, fun x => ?_⟩, fun v h1 => r.answer_writeTxFifo h1⟩
  · have hbank : a.toNat + v.length ≤ bankSize .config := by simp only [bankSize]; omega
    exact memRead_memWriteBytes .config x hbank hregs
  · have hbank : 0 + v.length ≤ bankSize .patable := by simp only [bankSize]; omega
    rw [memRead_memWriteBytes .patable x hbank hpatable]
    simp

/-- Settles O54: each read by its answer, each status register by its byte. -/
theorem responderReads : Obligations.ResponderReads := by
  intro r
  refine ⟨fun a ha => r.answer_readSingle ha, fun a n h1 ha => ?_, fun n h1 h8 => ?_, fun n h1 => ?_,
    r.answer_statusRead .partnum, r.answer_statusRead .version, r.answer_statusRead .marcstate, fun h => ?_,
    fun h => ?_, ?_⟩
  · rw [← memReadBytes_eq_map]
    exact r.answer_readConfig h1 ha
  · have hread := r.answer_readPatable h1 h8
    simp only [memReadBytes_eq_map, Nat.zero_add] at hread
    exact hread
  · rw [← popBytes_eq_map, ← r.popRx_eq]
    exact r.answer_readRxFifo h1
  · rw [← queueCount_of_le h]
    exact r.answer_statusRead .txbytes
  · rw [← queueCount_of_le h]
    exact r.answer_statusRead .rxbytes
  · simp only [List.forall_mem_cons]
    exact ⟨r.answer_statusRead .freqest, r.answer_statusRead .lqi, r.answer_statusRead .rssi,
      r.answer_statusRead .wortime1, r.answer_statusRead .wortime0, r.answer_statusRead .pktstatus,
      r.answer_statusRead .vcoVcDac, r.answer_statusRead .rcctrl1Status, r.answer_statusRead .rcctrl0Status,
      List.forall_mem_nil _⟩

/-- Settles O55: each strobe by its answer and its effect, the edges by the responder's list. -/
theorem responderStrobes : Obligations.ResponderStrobes := by
  intro r tr tm
  refine ⟨r.answer_strobe .sres, config_nil_reads, patable_nil_reads, r.answer_strobe .sftx, r.answer_strobe .sfrx,
    r.answer_strobe .stx, fun h => ?_, fun p ps h => ?_, r.answer_strobe .sidle, ?_, fun h => ?_, fun b bs h => ?_⟩
  · refine (r.answer_strobe .srx).trans ?_
    simp only [Responder.strobe, h, marcRx]
  · refine (r.answer_strobe .srx).trans ?_
    simp only [Responder.strobe, h, marcRx]
  · simp only [List.forall_mem_cons]
    exact ⟨r.answer_strobe .sfstxon, r.answer_strobe .sxoff, r.answer_strobe .scal, r.answer_strobe .swor,
      r.answer_strobe .spwd, r.answer_strobe .sworrst, r.answer_strobe .snop, List.forall_mem_nil _⟩
  · simp only [Environment.answerGpio, h]
  · simp only [Environment.answerGpio, h]

/-- Settles O59: the fields of a new responder, and what empty banks read as. -/
theorem responderAtCreation : Obligations.ResponderAtCreation := fun _ _ =>
  ⟨rfl, config_nil_reads, patable_nil_reads⟩

end Sys2Proof.Machine
end

section
/-! SUPPORT. The header byte and the rows of R89: the proof of HeaderByteLayout, and the model's legal forms as the rows
the statements write out (30_encoding.md R80 to R82, R89). -/

namespace Sys2Proof.Machine

/-! ### The header byte -/

/-- Bit 7 of a header is R/W, and bit 6 is B (30_encoding.md R81). -/
theorem header_modeBits (m : Mode) (a : Addr6) :
    (header m a).getLsbD 7 = decide (m = .readSingle ∨ m = .readBurst) ∧
      (header m a).getLsbD 6 = decide (m = .writeBurst ∨ m = .readBurst) := by
  cases m <;> revert a <;> decide

/-- The address is the header's lower six bits (30_encoding.md R81). -/
theorem header_toNat_mod (m : Mode) (a : Addr6) : (header m a).toNat % 64 = a.toNat := by
  cases m <;> revert a <;> decide

/-- Settles O1: a header's bits by its mode, and `header` with `headerMode` and `headerAddr` inverse to it. -/
theorem headerByteLayout : Obligations.HeaderByteLayout := by
  refine ⟨fun _ => ⟨rfl, rfl, rfl, rfl⟩, fun m a => ?_, header_headerMode⟩
  obtain ⟨hread, hburst⟩ := header_modeBits m a
  exact ⟨hread, hburst, headerMode_header m a, headerAddr_header m a, header_toNat_mod m a⟩

/-- Every byte is the header of a mode and an address (30_encoding.md R82). -/
theorem exists_eq_header (h : Byte) : ∃ m a, h = header m a := ⟨_, _, (header_headerMode h).symm⟩

/-! ### The rows of R89 -/

/-- The model's legal forms are the rows of R89. A configuration burst that ends by 0x2E has at most 47 bytes. -/
theorem legalForm_iff (f : Form) : legalForm f = true ↔ rowOfR89 f.mode f.addr.toNat f.n := by
  obtain ⟨m, a, n⟩ := f
  cases m with
  | readSingle => exact decide_eq_true_iff
  | writeSingle =>
      simp only [legalForm, rowOfR89, decide_eq_true_eq]
      omega
  | readBurst | writeBurst =>
      have hentries : patableEntries = 8 := rfl
      simp only [legalForm, rowOfR89, Bool.or_eq_true, decide_eq_true_eq]
      omega

theorem legalFrame_iff (tx : Bytes) : legalFrame tx = true ↔ frameOfR89 tx := by
  cases tx with
  | nil => simp [legalFrame, frameOfR89]
  | cons h data => exact legalForm_iff (formOf h data)

theorem legalFrame_eq_false {h : Byte} {data : Bytes} (hrow : ¬rowOfR89 (headerMode h) (headerAddr h).toNat data.length) :
    legalFrame (h :: data) = false :=
  Bool.eq_false_iff.2 fun hl => hrow ((legalFrame_iff _).1 hl)

/-- A header that has a legal form has one of no data byte or of one (30_encoding.md R89). -/
theorem legalForm_shortest {m : Mode} {a : Addr6} {n : Nat} (h : legalForm ⟨m, a, n⟩ = true) :
    legalForm ⟨m, a, 0⟩ = true ∨ legalForm ⟨m, a, 1⟩ = true := by
  simp only [legalForm_iff] at h ⊢
  cases m with
  | writeSingle => exact .inl ⟨h.1, rfl⟩
  | readSingle => exact .inr ⟨h.1, rfl⟩
  | readBurst | writeBurst =>
      refine .inr ?_
      simp only [rowOfR89, Std.le_refl, Nat.one_le_ofNat, add_tsub_cancel_right, true_and, and_true] at h ⊢
      omega

end Sys2Proof.Machine
end

section
/-! SUPPORT. Every transfer of a call has a form of R89, and the proof of OnlyListedFormsIssued (30_encoding.md R89). -/

namespace Sys2Proof.Machine

theorem framesIn_append (tr tr' : List Event) : framesIn (tr ++ tr') = framesIn tr ++ framesIn tr' :=
  List.filterMap_append

/-- The frame of an interaction: only a transfer has one. -/
def Interaction.frames : Interaction → List Bytes
  | .spi tx _ => [tx]
  | .gpio _ _ | .note _ => []

theorem framesIn_echoWarnings (p : EchoPolicy) (tx rx : Bytes) : framesIn (echoWarnings p tx rx) = [] :=
  List.filterMap_eq_nil_iff.2 fun _ he => by
    obtain ⟨w, rfl⟩ := mem_echoWarnings he
    rfl

theorem Interaction.framesIn_events (p : EchoPolicy) (x : Interaction) : framesIn (x.events p) = x.frames := by
  cases x with
  | spi tx rx => rw [Interaction.events, framesIn_append, framesIn_echoWarnings]; rfl
  | gpio t r => rfl
  | note w => rfl

/-- From `s` to `t` every frame transmitted has a legal form. -/
def IssuesLegal (s t : State) : Prop := ∃ ev, t.trace = s.trace ++ ev ∧ ∀ tx ∈ framesIn ev, legalFrame tx = true

variable {P : Interaction → Prop} {i : Instr} {s t u : State} {e : ErrorInfo}

theorem IssuesLegal.trans (h : IssuesLegal s t) (h' : IssuesLegal t u) : IssuesLegal s u := by
  obtain ⟨ev, ht, hev⟩ := h
  obtain ⟨ev', hu, hev'⟩ := h'
  refine ⟨ev ++ ev', by rw [hu, ht, List.append_assoc], fun tx htx => ?_⟩
  rw [framesIn_append] at htx
  exact (List.mem_append.1 htx).elim (hev tx) (hev' tx)

/-- Events without a transfer. -/
theorem issuesLegal_of_no_frames {ev : List Event} (htrace : t.trace = s.trace ++ ev) (hframes : framesIn ev = []) :
    IssuesLegal s t :=
  ⟨ev, htrace, by simp [hframes]⟩

theorem Path.issuesLegal (h : Path P s t) : IssuesLegal s t := by
  obtain ⟨ix, env, tr, hi, -, hlegal, rfl⟩ := h
  refine ⟨_, interact_trace hi, fun tx htx => ?_⟩
  obtain ⟨rx, hrx⟩ := mem_framesIn htx
  obtain ⟨x, hx, hev⟩ := List.mem_flatMap.1 hrx
  have hmem : tx ∈ framesIn (x.events s.cfg.echoPolicy) := List.mem_filterMap.2 ⟨_, hev, rfl⟩
  rw [Interaction.framesIn_events] at hmem
  cases x with
  | spi tx' rx' =>
      cases List.mem_singleton.1 hmem
      exact hlegal tx rx' hx
  | gpio | note => cases hmem

theorem Stops.issuesLegal (h : Stops P e s t) : IssuesLegal s t := by
  cases h with
  | check => exact issuesLegal_of_no_frames (ev := []) (by simp) rfl
  | length tx hl => exact ⟨_, (growsBy_xferred s tx).trace, by simpa [framesIn] using hl⟩
  | echo tx k want hl => exact ⟨_, (growsBy_transacted s tx).trace, by simpa [framesIn] using hl⟩

/-- Whichever way an operation ends, it has transmitted legal forms alone. -/
theorem exec_issuesLegal (h : exec i s = .next t) : IssuesLegal s t := by
  have hstart : IssuesLegal s (s.started i) := issuesLegal_of_no_frames (State.started_trace s i) rfl
  rcases exec_cases i s with ⟨-, he⟩ | ⟨-, ⟨u, v, hpath, he⟩ | ⟨u', u, e, hpath, hstop, he⟩ | ⟨u, b, n, hpath, he⟩⟩ <;>
    cases he.symm.trans h
  · exact hstart.trans (issuesLegal_of_no_frames rfl rfl)
  · have hu : IssuesLegal s u := hstart.trans hpath.issuesLegal
    exact hu.trans (issuesLegal_of_no_frames rfl rfl)
  · have hu : IssuesLegal s u := (hstart.trans hpath.issuesLegal).trans hstop.issuesLegal
    exact hu.trans (issuesLegal_of_no_frames rfl rfl)
  · have hu : IssuesLegal s u := hstart.trans hpath.issuesLegal
    exact hu.trans (issuesLegal_of_no_frames rfl rfl)

/-- Settles O20: a call is an operation, whose transfers have legal forms, or a refused frame, which is none. -/
theorem onlyListedFormsIssued : Obligations.OnlyListedFormsIssued := by
  intro c s t hrun tx htx
  have hissues : IssuesLegal s t := by
    rcases runCall_cases c s with ⟨i, -, he⟩ | ⟨b, data, -, -, -, he⟩
    · exact exec_issuesLegal (he.symm.trans hrun)
    · cases he.symm.trans hrun
      exact issuesLegal_of_no_frames (records_refuseRaw b data s).trace rfl
  obtain ⟨ev, htrace, hlegal⟩ := hissues
  rw [newEvents_eq htrace] at htx
  exact (legalFrame_iff tx).1 (hlegal tx htx)

end Sys2Proof.Machine
end

section
/-! SUPPORT. The decoder and the encoder against each other, and the proofs of SpecFramesDecode, DecodeEncodeAgree,
EncodeDecodeAgree and RefusedHeaders (30_encoding.md R83, R89 to R91, R98; log entries 5 to 7). -/

/-! ### The named strobes and status registers -/

namespace Sys2Proof

theorem StrobeCmd.wf_instr (c : StrobeCmd) : c.instr.wf = true := by cases c <;> rfl

theorem StrobeCmd.encode_instr (c : StrobeCmd) : encode c.instr = some (frameStrobe c.address) := by cases c <;> rfl

theorem StatusReg.wf_instr (r : StatusReg) : r.instr.wf = true := by cases r <;> rfl

theorem StatusReg.encode_instr (r : StatusReg) : encode r.instr = some (frameReadStatus r.address) := by cases r <;> rfl

theorem StrobeCmd.exists_address {a : Addr6} (h : isStrobeAddr a = true) : ∃ c : StrobeCmd, a = c.address := by
  have hsome : (StrobeCmd.ofAddr? a).isSome = true := (StrobeCmd.ofAddr?_isSome a).trans h
  obtain ⟨c, hc⟩ := Option.isSome_iff_exists.1 hsome
  exact ⟨c, (StrobeCmd.address_of_ofAddr? hc).symm⟩

theorem StatusReg.exists_address {a : Addr6} (h : isStatusAddr a = true) : ∃ r : StatusReg, a = r.address := by
  have hsome : (StatusReg.ofAddr? a).isSome = true := (StatusReg.ofAddr?_isSome a).trans h
  obtain ⟨r, hr⟩ := Option.isSome_iff_exists.1 hsome
  exact ⟨r, (StatusReg.address_of_ofAddr? hr).symm⟩

end Sys2Proof

namespace Sys2Proof.Machine

/-! ### The frames of the decoder's table -/

/-- The frames of R89's rows, by mode, address and data bytes, with the instruction that each stands for. A read's data
bytes are any (log entry 5). -/
inductive StandsFor : Mode → Addr6 → Bytes → Instr → Prop
  | readSingle {a : Addr6} (b : Byte) (ha : a.toNat ≤ 0x2E) : StandsFor .readSingle a [b] (.rd1 a)
  | strobe (c : StrobeCmd) : StandsFor .writeSingle c.address [] c.instr
  | readStatus (r : StatusReg) (b : Byte) : StandsFor .readBurst r.address [b] r.instr
  | readConfig {a : Addr6} {v : Bytes} {n : Nat} (hn : v.length = n) (h : configRange a n = true) :
      StandsFor .readBurst a v (.rdb a n)
  | readPatable {v : Bytes} {n : Nat} (hn : v.length = n) (h : 1 ≤ n ∧ n ≤ 8) :
      StandsFor .readBurst patableAddr v (.rdbPatable n)
  | readRxFifo {v : Bytes} {n : Nat} (hn : v.length = n) (h : 1 ≤ n) : StandsFor .readBurst fifoAddr v (.rdbRxFifo n)
  | writeConfig {a : Addr6} {v : Bytes} (h : configRange a v.length = true) : StandsFor .writeBurst a v (.wrb a v)
  | writePatable {v : Bytes} (h : 1 ≤ v.length ∧ v.length ≤ 8) : StandsFor .writeBurst patableAddr v (.wrbPatable v)
  | writeTxFifo {v : Bytes} (h : 1 ≤ v.length) : StandsFor .writeBurst fifoAddr v (.wrbTxFifo v)

/-- A legal form of the header `header m a` decodes to what the table has for it. -/
theorem decode_header {m : Mode} {a : Addr6} {data : Bytes} {i : Instr} (hl : legalForm ⟨m, a, data.length⟩ = true)
    (hi : legalInstr ⟨m, a, data.length⟩ data = some i) : decode (header m a :: data) = .ok i := by
  simp only [decode, formOf_header, hl, hi, if_true]

/-- A configuration address has no other row in the table. -/
theorem configRange_excludes {a : Addr6} {n : Nat} (h : configRange a n = true) :
    (1 ≤ n ∧ a.toNat + n - 1 ≤ 0x2E) ∧ a ≠ patableAddr ∧ a ≠ fifoAddr ∧ StatusReg.ofAddr? a = none := by
  have hrange : 1 ≤ n ∧ a.toNat + n - 1 ≤ 0x2E := of_decide_eq_true h
  have ha : a.toNat ≤ 0x2E := by omega
  refine ⟨hrange, ne_patableAddr_of_config ha, ne_fifoAddr_of_config ha, Option.not_isSome_iff_eq_none.1 ?_⟩
  rw [StatusReg.ofAddr?_isSome, decide_eq_true_eq]
  omega

theorem StandsFor.decode {m : Mode} {a : Addr6} {data : Bytes} {i : Instr} (h : StandsFor m a data i) :
    decode (header m a :: data) = .ok i := by
  cases h with
  | readSingle b ha => exact decode_header (decide_eq_true ⟨ha, rfl⟩) rfl
  | strobe c => exact decode_header (by cases c <;> rfl) (by simp [legalInstr])
  | readStatus r b =>
      obtain ⟨-, hpatable, hfifo⟩ := statusAddress_outside_banks r
      exact decode_header (by cases r <;> rfl) (by simp [legalInstr, hpatable, hfifo])
  | readConfig hn h =>
      subst hn
      obtain ⟨⟨h1, hend⟩, hpatable, hfifo, hstatus⟩ := configRange_excludes h
      exact decode_header (legalForm_config (.inl rfl) h1 hend) (by simp [legalInstr, hpatable, hfifo, hstatus])
  | readPatable hn h => subst hn; exact decode_header (legalForm_patable (.inl rfl) h.1 h.2) rfl
  | readRxFifo hn h => subst hn; exact decode_header (legalForm_fifo (.inl rfl) h) rfl
  | writeConfig h =>
      obtain ⟨⟨h1, hend⟩, hpatable, hfifo, -⟩ := configRange_excludes h
      exact decode_header (legalForm_config (.inr rfl) h1 hend) (by simp [legalInstr, hpatable, hfifo])
  | writePatable h => exact decode_header (legalForm_patable (.inr rfl) h.1 h.2) rfl
  | writeTxFifo h => exact decode_header (legalForm_fifo (.inr rfl) h) rfl

/-- The table has an instruction for every legal form (30_encoding.md R89). -/
theorem exists_standsFor {m : Mode} {a : Addr6} {data : Bytes} (hl : legalForm ⟨m, a, data.length⟩ = true) :
    ∃ i, StandsFor m a data i := by
  have hpatable : a.toNat = patableAddr.toNat → a = patableAddr := BitVec.eq_of_toNat_eq
  have hfifo : a.toNat = fifoAddr.toNat → a = fifoAddr := BitVec.eq_of_toNat_eq
  have hrow : rowOfR89 m a.toNat data.length := (legalForm_iff _).1 hl
  cases m with
  | readSingle =>
      obtain ⟨ha, hn⟩ := hrow
      obtain ⟨b, rfl⟩ := List.length_eq_one_iff.1 hn
      exact ⟨_, .readSingle b ha⟩
  | writeSingle =>
      obtain ⟨ha, hn⟩ := hrow
      obtain ⟨c, rfl⟩ := StrobeCmd.exists_address (a := a) (decide_eq_true (by omega))
      rw [List.eq_nil_of_length_eq_zero hn]
      exact ⟨_, .strobe c⟩
  | readBurst =>
      rcases hrow with ⟨-, h1, -, hend⟩ | ⟨hlo, hhi, hn⟩ | ⟨ha, hn⟩ | ⟨ha, hn⟩
      · exact ⟨_, .readConfig rfl (decide_eq_true ⟨h1, hend⟩)⟩
      · obtain ⟨r, rfl⟩ := StatusReg.exists_address (a := a) (decide_eq_true ⟨hlo, hhi⟩)
        obtain ⟨b, rfl⟩ := List.length_eq_one_iff.1 hn
        exact ⟨_, .readStatus r b⟩
      · cases hpatable ha
        exact ⟨_, .readPatable rfl hn⟩
      · cases hfifo ha
        exact ⟨_, .readRxFifo rfl hn⟩
  | writeBurst =>
      rcases hrow with ⟨-, h1, -, hend⟩ | ⟨ha, hn⟩ | ⟨ha, hn⟩
      · exact ⟨_, .writeConfig (decide_eq_true ⟨h1, hend⟩)⟩
      · cases hpatable ha
        exact ⟨_, .writePatable hn⟩
      · cases hfifo ha
        exact ⟨_, .writeTxFifo hn⟩

/-- The decoder refuses exactly the forms that are no row of R89 (30_encoding.md R90). -/
theorem decode_isError_iff (h : Byte) (data : Bytes) :
    (∃ e, decode (h :: data) = .error e) ↔ legalForm (formOf h data) = false := by
  obtain ⟨m, a, rfl⟩ := exists_eq_header h
  rw [formOf_header]
  cases hl : legalForm ⟨m, a, data.length⟩ with
  | true =>
      obtain ⟨i, hi⟩ := exists_standsFor hl
      simp [hi.decode]
  | false => exact iff_of_true ⟨formError ⟨m, a, data.length⟩, by simp [decode, hl]⟩ rfl

/-- The decoder reads the table, and nothing else. -/
theorem decode_eq_ok_iff {m : Mode} {a : Addr6} {data : Bytes} {i : Instr} :
    decode (header m a :: data) = .ok i ↔ StandsFor m a data i := by
  refine ⟨fun hd => ?_, StandsFor.decode⟩
  cases hl : legalForm ⟨m, a, data.length⟩ with
  | true =>
      obtain ⟨j, hj⟩ := exists_standsFor hl
      cases hj.decode.symm.trans hd
      exact hj
  | false =>
      obtain ⟨e, he⟩ := (decode_isError_iff (header m a) data).2 (by rwa [formOf_header])
      cases he.symm.trans hd

/-! ### The statements -/

/-- Settles O2: the decoder run on each frame. -/
theorem specFramesDecode : Obligations.SpecFramesDecode :=
  ⟨rfl, rfl, rfl, rfl, rfl, rfl, rfl, rfl, rfl, rfl, rfl, rfl⟩

/-- What DecodeEncodeAgree says of one instruction. -/
def DecodesBack (i : Instr) : Prop :=
  ∀ tx, i.wf = true → encode i = some tx → decode tx = .ok (canonical i) ∧ encode (canonical i) = some tx

/-- A frame built from the operands is the frame the table has; the constant ones are run. -/
theorem decodesBack (i : Instr) : DecodesBack i := by
  intro tx hwf htx
  cases i with
  | rd1 a => cases htx; exact ⟨(StandsFor.readSingle 0 (of_decide_eq_true hwf)).decode, rfl⟩
  | rdb a n => cases htx; exact ⟨(StandsFor.readConfig List.length_replicate hwf).decode, rfl⟩
  | rds a =>
      cases htx
      obtain ⟨r, rfl⟩ := StatusReg.exists_address hwf
      simp only [canonical, StatusReg.ofAddr?_address]
      exact ⟨(StandsFor.readStatus r 0).decode, r.encode_instr⟩
  | stb a =>
      cases htx
      obtain ⟨c, rfl⟩ := StrobeCmd.exists_address hwf
      simp only [canonical, StrobeCmd.ofAddr?_address]
      exact ⟨(StandsFor.strobe c).decode, c.encode_instr⟩
  | wrb a v => cases htx; exact ⟨(StandsFor.writeConfig hwf).decode, rfl⟩
  | rdbPatable n =>
      cases htx
      exact ⟨(StandsFor.readPatable List.length_replicate (of_decide_eq_true hwf)).decode, rfl⟩
  | wrbPatable v => cases htx; exact ⟨(StandsFor.writePatable (of_decide_eq_true hwf)).decode, rfl⟩
  | rdbRxFifo n =>
      cases htx
      exact ⟨(StandsFor.readRxFifo List.length_replicate (of_decide_eq_true hwf)).decode, rfl⟩
  | wrbTxFifo v => cases htx; exact ⟨(StandsFor.writeTxFifo (of_decide_eq_true hwf)).decode, rfl⟩
  | resetOp | stbSres | stbSfstxon | stbSxoff | stbScal | stbSrx | stbStx | stbSidle | stbSwor | stbSpwd | stbSfrx
  | stbSftx | stbSworrst | stbSnop => cases htx; exact ⟨rfl, rfl⟩
  | rdsPartnum | rdsVersion | rdsFreqest | rdsLqi | rdsRssi | rdsMarcstate | rdsWortime1 | rdsWortime0 | rdsPktstatus
  | rdsVcoVcDac | rdsTxbytes | rdsRxbytes | rdsRcctrl1Status | rdsRcctrl0Status => cases htx; exact ⟨rfl, rfl⟩
  | _ => cases htx

/-- Settles O3: each instruction by its frame; only the generic spellings have another canonical form. -/
theorem decodeEncodeAgree : Obligations.DecodeEncodeAgree := by
  refine ⟨fun i tx => decodesBack i tx, fun i hrds hstb hreset => ?_⟩
  cases i with
  | rds a => exact absurd rfl (hrds a)
  | stb a => exact absurd rfl (hstb a)
  | resetOp => exact absurd rfl hreset
  | _ => rfl

/-- The header of a read mode is not a write's: its R/W bit is set (30_encoding.md R81). -/
theorem header_reads {m : Mode} (hm : m = .readSingle ∨ m = .readBurst) (a : Addr6) {Q : Prop}
    (h7 : (header m a).getLsbD 7 = false) : Q := by
  rw [(header_modeBits m a).1, decide_eq_true hm] at h7
  cases h7

/-- Settles O4: the frames of the table, encoded again. -/
theorem encodeDecodeAgree : Obligations.EncodeDecodeAgree := by
  intro h data i hdecode
  obtain ⟨m, a, rfl⟩ := exists_eq_header h
  cases decode_eq_ok_iff.1 hdecode with
  | readSingle b ha => exact ⟨decide_eq_true ha, [0], rfl, rfl, header_reads (.inl rfl) a⟩
  | strobe c => exact ⟨c.wf_instr, [], c.encode_instr, rfl, fun _ => rfl⟩
  | readStatus r b => exact ⟨r.wf_instr, [0], r.encode_instr, rfl, header_reads (.inr rfl) _⟩
  | readConfig hn h => exact ⟨h, _, rfl, List.length_replicate.trans hn.symm, header_reads (.inr rfl) _⟩
  | readPatable hn h | readRxFifo hn h =>
      exact ⟨decide_eq_true h, _, rfl, List.length_replicate.trans hn.symm, header_reads (.inr rfl) _⟩
  | writeConfig hrange => exact ⟨hrange, data, rfl, rfl, fun _ => rfl⟩
  | writePatable hn | writeTxFifo hn => exact ⟨decide_eq_true hn, data, rfl, rfl, fun _ => rfl⟩

/-- A header is refused at every length exactly if it is with no data byte and with one. -/
theorem refused_at_every_length_iff (h : Byte) :
    (∀ data, ∃ e, decode (h :: data) = .error e) ↔
      legalForm ⟨headerMode h, headerAddr h, 0⟩ = false ∧ legalForm ⟨headerMode h, headerAddr h, 1⟩ = false := by
  simp only [decode_isError_iff]
  refine ⟨fun hall => ⟨hall [], hall [0]⟩, fun ⟨h0, h1⟩ data => Bool.eq_false_iff.2 fun hl => ?_⟩
  rcases legalForm_shortest hl with hl | hl
  · exact Bool.noConfusion (h0.symm.trans hl)
  · exact Bool.noConfusion (h1.symm.trans hl)

/-- The listed headers are those with no row of R89 for no data byte or one (30_encoding.md R98), byte by byte. -/
theorem refusedHeader_iff_listed : ∀ h : Byte,
    (legalForm ⟨headerMode h, headerAddr h, 0⟩ = false ∧ legalForm ⟨headerMode h, headerAddr h, 1⟩ = false) ↔
      (h.toNat ≤ 0x2F ∨ h = 0x37 ∨ h = 0x3E ∨ h = 0x3F) ∨ (0xAF ≤ h.toNat ∧ h.toNat ≤ 0xBF) ∨
        (0x6F ≤ h.toNat ∧ h.toNat ≤ 0x7D) ∨ h = 0xEF := by
  decide

/-- Settles O5: two lengths decide, and the bytes that fail both are the listed ones. -/
theorem refusedHeaders : Obligations.RefusedHeaders := fun h =>
  (refused_at_every_length_iff h).trans (refusedHeader_iff_listed h)

end Sys2Proof.Machine
end

section
/-! SUPPORT. What is asked for outside R89 is refused, as a frame and as an operation: the proofs of
FormsOutsideR89Refused and IllegalOperandsRefused (30_encoding.md R90; 40_bus_codec.md R120; 60_exceptions.md R357). -/

namespace Sys2Proof.Machine

/-- No clause of R90 is a row of R89. -/
theorem not_row_of_clause {m : Mode} {a n : Nat} (h : clauseOfR90 m a n) : ¬rowOfR89 m a n := by
  cases m with
  | readSingle | readBurst | writeSingle | writeBurst =>
      simp only [clauseOfR90, reduceCtorEq, false_and, true_and, false_or, or_false, or_true] at h
      simp only [rowOfR89]
      omega

theorem runCall_of_decode_error {h : Byte} {data : Bytes} {e : DecodeError} (he : decode (h :: data) = .error e)
    (s : State) : runCall (.raw h data) s = .next (refuseRaw h data s) := by
  simp [runCall, decodeCall, he]

/-- Settles O6: the decoder rejects the frame, and in READY the refusal is for its form. -/
theorem formsOutsideR89Refused : Obligations.FormsOutsideR89Refused := by
  refine ⟨fun _ _ _ => not_row_of_clause, fun s h data hready hrow => ?_⟩
  obtain ⟨e, he⟩ := (decode_isError_iff h data).2 (legalFrame_eq_false hrow)
  rw [runCall_of_decode_error he, refuseRaw_eq, rawRefusal, if_pos hready]
  simp [State.refuse, State.emit]

/-! ### Transactions handed over as operations -/

/-- The body is one transfer of the frame, expected to answer as many bytes, and what is made of its response. -/
def BodyTransacts (tx : Bytes) (x : Op Value) : Prop :=
  ∃ f : Bytes → Op Value, x = transact tx tx.length >>= f

theorem bodyTransacts_readSingle (a : Addr6) :
    BodyTransacts (frameReadSingle a) (do let b ← readSingle a; pure (.byte b)) := ⟨_, bind_assoc _ _ _⟩

theorem bodyTransacts_status (a : Addr6) : BodyTransacts (frameReadStatus a) (statusBody a) := ⟨_, bind_assoc _ _ _⟩

theorem bodyTransacts_strobe (a : Addr6) : BodyTransacts (frameStrobe a) (strobeBody a) := ⟨_, bind_assoc _ _ _⟩

theorem bodyTransacts_burstRead (a : Addr6) (n : Nat) : BodyTransacts (frameReadBurst a n) (burstReadBody a n) := by
  rw [BodyTransacts, frameReadBurst_length]
  exact ⟨_, bind_assoc _ _ _⟩

theorem bodyTransacts_burstWrite (a : Addr6) (v : Bytes) : BodyTransacts (frameWriteBurst a v) (burstWriteBody a v) :=
  ⟨_, bind_assoc _ _ _⟩

/-- An operation with a frame is the transaction of that frame (40_bus_codec.md R122 to R159). -/
theorem exec_of_encode {i : Instr} {tx : Bytes} (h : encode i = some tx) :
    ∃ x, BodyTransacts tx x ∧ ∀ s, exec i s = runOp i x s := by
  cases i with
  | rd1 a => cases h; exact ⟨_, bodyTransacts_readSingle a, fun _ => rfl⟩
  | rds a => cases h; exact ⟨_, bodyTransacts_status a, fun _ => rfl⟩
  | stb a => cases h; exact ⟨_, bodyTransacts_strobe a, fun _ => rfl⟩
  | rdb | rdbPatable | rdbRxFifo => cases h; exact ⟨_, bodyTransacts_burstRead _ _, fun _ => rfl⟩
  | wrb | wrbPatable | wrbTxFifo => cases h; exact ⟨_, bodyTransacts_burstWrite _ _, fun _ => rfl⟩
  | resetOp | stbSres | stbSfstxon | stbSxoff | stbScal | stbSrx | stbStx | stbSidle | stbSwor | stbSpwd | stbSfrx
  | stbSftx | stbSworrst | stbSnop => cases h; exact ⟨_, bodyTransacts_strobe _, fun _ => rfl⟩
  | rdsPartnum | rdsVersion | rdsFreqest | rdsLqi | rdsRssi | rdsMarcstate | rdsWortime1 | rdsWortime0 | rdsPktstatus
  | rdsVcoVcDac | rdsTxbytes | rdsRxbytes | rdsRcctrl1Status | rdsRcctrl0Status =>
      cases h; exact ⟨_, bodyTransacts_status _, fun _ => rfl⟩
  | _ => cases h

/-- READY accepts every operation that has a frame (10_state.md R25). -/
theorem ready_accepts_of_encode {i : Instr} {tx : Bytes} (h : encode i = some tx) : accepts .ready i = true := by
  refine decide_eq_true ⟨?_, ?_⟩ <;> rintro rfl <;> cases h

/-- A frame that is no row of R89 is refused before any transfer (40_bus_codec.md R120). -/
theorem BodyTransacts.refused {h : Byte} {data : Bytes} {x : Op Value} (hx : BodyTransacts (h :: data) x)
    (hl : legalFrame (h :: data) = false) (s : State) : x s = .error (.refuse (.illegalForm h data.length)) s := by
  obtain ⟨f, rfl⟩ := hx
  simp [Bind.bind, EStateM.bind, transact, hl, byteAt]

/-- Settles O7: the operation is its frame's transaction, which the form check refuses first. -/
theorem illegalOperandsRefused : Obligations.IllegalOperandsRefused := by
  intro s i h data hready hencode hrow
  obtain ⟨x, hx, hexec⟩ := exec_of_encode hencode
  have haccepts : accepts s.life i = true := by rw [hready]; exact ready_accepts_of_encode hencode
  rw [Refuses, hexec, runOp, if_pos haccepts, hx.refused (legalFrame_eq_false hrow)]
  simp [finish, State.refuse, State.started, State.emit]

end Sys2Proof.Machine
end

section
/-! SUPPORT. The chip status byte, and the proof of ChipStatusFields (30_encoding.md R85 to R87). -/

namespace Sys2Proof.Machine

/-- Bit 7 of a byte as a number. -/
theorem chipNotReady_toNat (b : Byte) : (chipNotReady b).toNat = b.toNat / 128 := by
  revert b; decide

/-- The STATE names by their codes (30_encoding.md R86). -/
theorem chipState_eq_iff (b : Byte) :
    ∀ p ∈ ([(0, .idle), (1, .rx), (2, .tx), (3, .fstxon), (4, .calibrate), (5, .settling), (6, .rxfifoOverflow),
      (7, .txfifoUnderflow)] : List (Nat × ChipState)), chipState b = p.2 ↔ b.toNat / 16 % 8 = p.1 := by
  revert b; decide

/-- Settles O58: the fields are the bits R85 gives, and put together the byte. -/
theorem chipStatusFields : Obligations.ChipStatusFields := by
  intro b
  refine ⟨rfl, rfl, chipState_eq_iff b, ?_⟩
  have hbyte : b.toNat < 256 := b.isLt
  rw [chipNotReady_toNat, fifoBytesAvailable]
  omega

end Sys2Proof.Machine
end

section
/-! SUPPORT. The log of an operation, event by event, and the proofs of WrongLengthEndsOperation, TransactionLengthError
and EchoPolicies (40_bus_codec.md R120, R121). -/

namespace Sys2Proof.Machine

/-! ### What an operation logs -/

/-- A response with its frame's length and an echo the policy accepts (40_bus_codec.md R120, R121). -/
def Interaction.accepted (p : EchoPolicy) : Interaction → Prop
  | .spi tx rx => rx.length = tx.length ∧ echoPasses p tx rx = true
  | .gpio _ _ | .note _ => True

theorem interact_accepted {p : EchoPolicy} : ∀ {ix : List Interaction} {env env' : Environment} {tr tr' : List Event},
    interact p env tr ix = some (env', tr') → ∀ x ∈ ix, x.accepted p
  | [], _, _, _, _, _ => by simp
  | .spi tx rx :: ix, _, _, _, _, h => by
      simp only [interact] at h
      split at h
      · rename_i hr
        exact List.forall_mem_cons.2 ⟨hr.2, interact_accepted h⟩
      · cases h
  | .gpio t r :: ix, _, _, _, _, h => by
      simp only [interact] at h
      split at h
      · exact List.forall_mem_cons.2 ⟨trivial, interact_accepted h⟩
      · cases h
  | .note w :: ix, _, _, _, _, h => List.forall_mem_cons.2 ⟨trivial, interact_accepted (by simpa only [interact] using h)⟩

/-- The two events of an error taken (60_exceptions.md R360). -/
def errorEvents (i : Instr) (e : ErrorInfo) : List Event := [.errorRaised ⟨i, e⟩, .opEnd (.err ⟨i, e⟩)]

/-- The events with which an operation ends under a policy: OpEnd alone; an error of a check; a response of a wrong length;
an echo byte that a checking policy rejects. -/
inductive Ending (p : EchoPolicy) (i : Instr) : List Event → Prop
  | opEnd (o : OpOutcome) : Ending p i [.opEnd o]
  | check {e : ErrorInfo} (hecho : e.kind ≠ .echo) : Ending p i (errorEvents i e)
  | length {tx rx : Bytes} (hlen : rx.length ≠ tx.length) :
      Ending p i (.xfer tx rx :: errorEvents i (lengthError tx rx))
  | echo {tx rx : Bytes} {k : Nat} {want : Byte} (hmode : headerMode (byteAt tx 0) = .writeBurst)
      (hlen : rx.length = tx.length) (hwant : echoWant p (byteAt rx 0) = some want) (hk : k + 1 < tx.length)
      (hbefore : ∀ j < k, byteAt rx (j + 1) = want) (hne : byteAt rx (k + 1) ≠ want) :
      Ending p i (.xfer tx rx :: .statusObserved (byteAt rx 0) ::
        errorEvents i (echoError (byteAt tx 0) (k + 1) want (byteAt rx (k + 1))))

/-- The events of an operation: OpStart, those of the interactions, and its end. -/
def logOf (p : EchoPolicy) (i : Instr) (ix : List Interaction) (ending : List Event) : List Event :=
  .opStart (.op i) :: (ix.flatMap (Interaction.events p) ++ ending)

variable {p : EchoPolicy} {P : Interaction → Prop} {i : Instr} {s t u : State} {e : ErrorInfo} {tx rx : Bytes}
  {ix : List Interaction} {ending : List Event}

theorem Path.trace_eq (h : Path P s t) : ∃ ix : List Interaction,
    t.trace = s.trace ++ ix.flatMap (Interaction.events s.cfg.echoPolicy) ∧ (∀ x ∈ ix, P x) ∧
      ∀ x ∈ ix, x.accepted s.cfg.echoPolicy := by
  obtain ⟨ix, env, tr, hi, hP, -, rfl⟩ := h
  exact ⟨ix, interact_trace hi, hP, interact_accepted hi⟩

theorem Stops.trace_eq (h : Stops P e s t) :
    ∃ ending, (t.takeError ⟨i, e⟩).trace = s.trace ++ ending ∧ Ending s.cfg.echoPolicy i ending := by
  cases h with
  | check _ hecho => exact ⟨_, rfl, .check hecho⟩
  | length tx _ _ hlen he => subst he; exact ⟨_, List.append_assoc .., .length hlen⟩
  | echo tx k want _ _ hmode hlen hwant hk hbefore hne he =>
      subst he
      exact ⟨_, by simp [errorEvents], .echo hmode hlen hwant hk hbefore hne⟩

/-- Whichever way an operation ends, its log is OpStart, allowed interactions and one of the endings. -/
theorem exec_log (h : exec i s = .next t) : ∃ ix ending, t.trace = s.trace ++ logOf s.cfg.echoPolicy i ix ending ∧
    (∀ x ∈ ix, allowedBy i x) ∧ (∀ x ∈ ix, x.accepted s.cfg.echoPolicy) ∧ Ending s.cfg.echoPolicy i ending := by
  rcases exec_cases i s with ⟨-, he⟩ | ⟨-, ⟨u, v, hpath, he⟩ | ⟨u', u, e, hpath, hstop, he⟩ | ⟨u, b, n, hpath, he⟩⟩ <;>
    cases he.symm.trans h
  · exact ⟨[], _, by simp [logOf], by simp, by simp, .opEnd (.refused (.wrongState (.op i) s.life))⟩
  · obtain ⟨ix, htrace, hallowed, haccepted⟩ := hpath.trace_eq
    exact ⟨ix, _, by simp [logOf, htrace], hallowed, haccepted, .opEnd (.ok v)⟩
  · obtain ⟨ix, htrace, hallowed, haccepted⟩ := hpath.trace_eq
    obtain ⟨ending, hend, hending⟩ := hstop.trace_eq (i := i)
    rw [hpath.cfg] at hending
    exact ⟨ix, ending, by rw [hend, htrace]; simp [logOf], hallowed, haccepted, hending⟩
  · obtain ⟨ix, htrace, hallowed, haccepted⟩ := hpath.trace_eq
    exact ⟨ix, _, by simp [logOf, htrace], hallowed, haccepted, .opEnd (.refused (.illegalForm b n))⟩

/-! ### The events of a log -/

theorem Interaction.eq_spi_of_mem_events {x : Interaction} (h : Event.xfer tx rx ∈ x.events p) : x = .spi tx rx := by
  cases x with
  | spi tx' rx' =>
      rcases List.mem_append.1 h with h | h
      · simp only [List.mem_cons, Event.xfer.injEq, reduceCtorEq, List.not_mem_nil, or_false] at h
        rw [h.1, h.2]
      · obtain ⟨w, hw⟩ := mem_echoWarnings h
        cases hw
  | gpio | note => cases List.mem_singleton.1 h

/-- A transfer of a log is one of the interactions or belongs to the end. -/
theorem xfer_mem_logOf (h : Event.xfer tx rx ∈ logOf p i ix ending) :
    Interaction.spi tx rx ∈ ix ∨ Event.xfer tx rx ∈ ending := by
  rcases List.mem_append.1 ((List.mem_cons.1 h).resolve_left (by simp)) with h | h
  · obtain ⟨x, hx, hev⟩ := List.mem_flatMap.1 h
    cases Interaction.eq_spi_of_mem_events hev
    exact .inl hx
  · exact .inr h

/-- An error of a log belongs to the end: interactions raise none. -/
theorem errorRaised_mem_logOf {e : ErrorRecord} (h : Event.errorRaised e ∈ logOf p i ix ending) :
    Event.errorRaised e ∈ ending := by
  refine (List.mem_append.1 ((List.mem_cons.1 h).resolve_left (by simp))).resolve_left fun h => ?_
  obtain ⟨x, -, hev⟩ := List.mem_flatMap.1 h
  rcases Interaction.events_cases hev with ⟨_, _, h⟩ | ⟨_, h⟩ | ⟨_, _, h⟩ | ⟨_, h⟩ <;> cases h

@[simp] theorem xfer_not_mem_errorEvents : Event.xfer tx rx ∉ errorEvents i e := by simp [errorEvents]

/-- A transfer at the end with a wrong length is the one that ends the operation. -/
theorem Ending.of_wrong_length (h : Ending p i ending) (hx : Event.xfer tx rx ∈ ending) (hlen : rx.length ≠ tx.length) :
    ending = .xfer tx rx :: errorEvents i (lengthError tx rx) := by
  cases h with
  | opEnd | check => simp at hx
  | length =>
      obtain ⟨rfl, rfl⟩ : tx = _ ∧ rx = _ := by simpa using hx
      rfl
  | echo _ hlen' =>
      obtain ⟨rfl, rfl⟩ : tx = _ ∧ rx = _ := by simpa using hx
      exact absurd hlen' hlen

/-- Settles O14: every transfer but the one at the end has its frame's length. -/
theorem wrongLengthEndsOperation : Obligations.WrongLengthEndsOperation := by
  intro i s t tx rx hexec hx hlen
  obtain ⟨ix, ending, htrace, -, haccepted, hending⟩ := exec_log hexec
  rw [newEvents_eq htrace] at hx
  rcases xfer_mem_logOf hx with hx | hx
  · exact absurd (haccepted _ hx).1 hlen
  · rw [hending.of_wrong_length hx hlen] at htrace
    exact ⟨s.trace ++ logOf s.cfg.echoPolicy i ix [], by simp [htrace, logOf, errorEvents, lengthError]⟩

/-! ### A transaction's wrong length in full -/

/-- A transaction stops at a response of a wrong length (40_bus_codec.md R120). -/
theorem BodyTransacts.length_error {x : Op Value} (hx : BodyTransacts tx x) (hl : legalFrame tx = true)
    (hlen : (s.reply tx).length ≠ tx.length) :
    x s = .error (.err (lengthError tx (s.reply tx))) (s.xferred tx) := by
  obtain ⟨f, rfl⟩ := hx
  simp [Bind.bind, EStateM.bind, transact, hl, hlen, lengthError]

/-- A protocol error of an operation that has a frame leaves FAULTED (60_exceptions.md R360). -/
theorem lifeAfterError_of_encode (hencode : encode i = some tx) (hclass : kindClass e.kind = .protocolError) (l : Life) :
    lifeAfterError l ⟨i, e⟩ = .faulted := by
  have hopen : i ≠ .openOp := by rintro rfl; cases hencode
  have hclose : i ≠ .closeOp := by rintro rfl; cases hencode
  simp [lifeAfterError, hopen, hclose, hclass]

/-- Settles O15: the operation is its frame's transaction, which stops at the response. -/
theorem transactionLengthError : Obligations.TransactionLengthError := by
  rintro i s h data hready hencode hrow rx env hanswer hlen e rfl
  obtain ⟨x, hx, hexec⟩ := exec_of_encode hencode
  have haccepts : accepts s.life i = true := by rw [hready]; exact ready_accepts_of_encode hencode
  have hlegal : legalFrame (h :: data) = true := (legalFrame_iff _).2 hrow
  have hreply : (s.started i).reply (h :: data) = rx := congrArg Prod.fst hanswer
  have hlife := lifeAfterError_of_encode (e := lengthError (h :: data) rx) hencode rfl s.life
  rw [hexec, runOp, if_pos haccepts, hx.length_error hlegal (by rw [hreply]; exact hlen), hreply]
  simp only [finish, State.takeError, State.xferred_life, State.started_life, hlife]
  simp [hanswer, hreply, lengthError]

/-! ### The echo policies -/

/-- The first byte of a frame is its header. -/
theorem head?_eq_byteAt (h : 0 < tx.length) : tx.head? = some (byteAt tx 0) := by
  cases tx with
  | nil => cases h
  | cons b bs => rfl

theorem byteAt_cons_succ (b : Byte) (bs : Bytes) (k : Nat) : byteAt (b :: bs) (k + 1) = bs.getD k 0 := rfl

/-- ADVISORY's warnings, by the echo bytes after the status byte (40_bus_codec.md R121). -/
theorem echoWarnings_advisory (st : Byte) (echo : Bytes) (hmode : headerMode (byteAt tx 0) = .writeBurst) :
    echoWarnings .advisory tx (st :: echo) =
      ((List.range echo.length).filter fun k => decide (echo.getD k 0 ≠ st)).map
        fun k => .warning (.echoMismatch (byteAt tx 0) (k + 1) st (echo.getD k 0)) :=
  if_pos ⟨rfl, hmode⟩

/-- A policy that wants a byte accepts only that one (40_bus_codec.md R121). -/
theorem eq_want_of_echoPasses {want : Byte} (hpass : echoPasses p tx rx = true)
    (hmode : headerMode (byteAt tx 0) = .writeBurst) (hwant : echoWant p (byteAt rx 0) = some want) :
    ∀ b ∈ rx.drop 1, b = want := by
  cases p with
  | advisory => cases hwant
  | matchStatus | match0F => cases hwant; exact of_decide_eq_true hpass hmode

/-- A transfer at the end with the right length is the burst write whose echo is rejected at its first wrong byte. -/
theorem Ending.of_right_length (h : Ending p i ending) (hx : Event.xfer tx rx ∈ ending) (hlen : rx.length = tx.length) :
    ∃ k want, echoWant p (byteAt rx 0) = some want ∧ (∀ j < k, byteAt rx (j + 1) = want) ∧
      byteAt rx (k + 1) ≠ want ∧
      ending = .xfer tx rx :: .statusObserved (byteAt rx 0) ::
        errorEvents i (echoError (byteAt tx 0) (k + 1) want (byteAt rx (k + 1))) := by
  cases h with
  | opEnd | check => simp at hx
  | length hlen' =>
      obtain ⟨rfl, rfl⟩ : tx = _ ∧ rx = _ := by simpa using hx
      exact absurd hlen hlen'
  | echo _ _ hwant _ hbefore hne =>
      obtain ⟨rfl, rfl⟩ : tx = _ ∧ rx = _ := by simpa using hx
      exact ⟨_, _, hwant, hbefore, hne, rfl⟩

/-- After an interaction no warning of the echo check comes first: they belong to the burst write before them. -/
theorem head_of_later_events {w : Warning} (hallowed : ∀ x ∈ ix, allowedBy i x) (hending : Ending p i ending)
    (hw : (ix.flatMap (Interaction.events p) ++ ending).head? = some (.warning w)) :
    ∃ hz, w = .frequencyBelowTxFloor hz := by
  cases ix with
  | nil => cases hending <;> cases hw
  | cons x ix =>
      cases x with
      | spi | gpio => cases hw
      | note w' =>
          cases hw
          obtain ⟨hz, -, hw⟩ := hallowed _ List.mem_cons_self
          exact ⟨hz, hw⟩

/-- The log around a transfer among the interactions. -/
theorem logOf_eq_of_mem (h : Interaction.spi tx rx ∈ ix) : ∃ pre, ∃ later : List Interaction, (∀ x ∈ later, x ∈ ix) ∧
    logOf p i ix ending = pre ++ Interaction.events p (.spi tx rx) ++
      (later.flatMap (Interaction.events p) ++ ending) := by
  obtain ⟨earlier, later, rfl⟩ := List.append_of_mem h
  exact ⟨.opStart (.op i) :: earlier.flatMap (Interaction.events p), later, fun x hx => by simp [hx], by simp [logOf]⟩

variable {st : Byte} {echo : Bytes}

/-- Under ADVISORY an echo ends no operation, and its warnings follow its status byte (40_bus_codec.md R121). -/
theorem advisory_log (hexec : exec i s = .next t) (hx : Event.xfer tx (st :: echo) ∈ newEvents s t)
    (hmode : headerMode (byteAt tx 0) = .writeBurst) (hlen : echo.length + 1 = tx.length)
    (hpolicy : s.cfg.echoPolicy = .advisory) :
    ∃ pre post, newEvents s t = pre ++ [.xfer tx (st :: echo), .statusObserved st] ++
        ((List.range echo.length).filter fun k => decide (echo.getD k 0 ≠ st)).map
          (fun k => .warning (.echoMismatch (byteAt tx 0) (k + 1) st (echo.getD k 0))) ++ post ∧
      ∀ w, post.head? = some (.warning w) → ∃ hz, w = .frequencyBelowTxFloor hz := by
  obtain ⟨ix, ending, htrace, hallowed, -, hending⟩ := exec_log hexec
  rw [newEvents_eq htrace] at hx ⊢
  rw [hpolicy] at hx hending ⊢
  rcases xfer_mem_logOf hx with hx | hx
  · obtain ⟨pre, later, hlater, hlog⟩ := logOf_eq_of_mem (p := .advisory) (i := i) (ending := ending) hx
    refine ⟨pre, _, ?_, fun w hw => head_of_later_events (fun x hx => hallowed x (hlater x hx)) hending hw⟩
    rw [hlog, Interaction.events, echoWarnings_advisory st echo hmode, ← List.append_assoc pre]
    rfl
  · obtain ⟨k, want, hwant, -⟩ := hending.of_right_length hx hlen
    cases hwant

/-- The byte a checking policy wants. -/
theorem echoWant_eq_some {want : Byte} (h : p = .matchStatus ∧ want = st ∨ p = .match0F ∧ want = 0x0F) :
    echoWant p st = some want := by
  rcases h with ⟨rfl, rfl⟩ | ⟨rfl, rfl⟩ <;> rfl

/-- Under a checking policy the first wrong echo byte ends the operation (40_bus_codec.md R121). -/
theorem checked_trace {want : Byte} {k : Nat} (hexec : exec i s = .next t)
    (hx : Event.xfer tx (st :: echo) ∈ newEvents s t) (hmode : headerMode (byteAt tx 0) = .writeBurst)
    (hlen : echo.length + 1 = tx.length) (hwant : echoWant s.cfg.echoPolicy st = some want) (hk : k < echo.length)
    (hbefore : ∀ j < k, echo.getD j 0 = want) (hne : echo.getD k 0 ≠ want) :
    ∃ tr, t.trace = tr ++ [.xfer tx (st :: echo), .statusObserved st] ++
      errorEvents i (echoError (byteAt tx 0) (k + 1) want (echo.getD k 0)) := by
  obtain ⟨ix, ending, htrace, -, haccepted, hending⟩ := exec_log hexec
  rw [newEvents_eq htrace] at hx
  rcases xfer_mem_logOf hx with hx | hx
  · have hall : ∀ b ∈ echo, b = want := eq_want_of_echoPasses (haccepted _ hx).2 hmode hwant
    rw [List.getD_eq_getElem _ _ hk] at hne
    exact absurd (hall _ (List.getElem_mem hk)) hne
  · obtain ⟨k', want', hwant', hbefore', hne', rfl⟩ := hending.of_right_length hx hlen
    cases hwant.symm.trans hwant'
    have hfirst : k' = k := by
      rcases lt_trichotomy k' k with hlt | heq | hgt
      · exact absurd (hbefore k' hlt) hne'
      · exact heq
      · exact absurd (hbefore' k hgt) hne
    subst hfirst
    exact ⟨s.trace ++ logOf s.cfg.echoPolicy i ix [], by simp [htrace, logOf, byteAt]⟩

/-- An ECHO error comes from a burst write under a checking policy (40_bus_codec.md R121). -/
theorem Ending.of_echo_error {e : ErrorRecord} (h : Ending p i ending) (he : Event.errorRaised e ∈ ending)
    (hkind : e.info.kind = .echo) : p ≠ .advisory ∧ ∃ tx rx, Event.xfer tx rx ∈ ending ∧
      headerMode (byteAt tx 0) = .writeBurst ∧ e.info.header = tx.head? := by
  cases h with
  | opEnd => simp at he
  | check hecho =>
      obtain rfl : e = ⟨i, _⟩ := by simpa [errorEvents] using he
      exact absurd hkind hecho
  | length =>
      obtain rfl : e = ⟨i, _⟩ := by simpa [errorEvents] using he
      cases hkind
  | @echo tx rx k want hmode _ hwant hk =>
      obtain rfl : e = ⟨i, _⟩ := by simpa [errorEvents] using he
      refine ⟨?_, tx, rx, List.mem_cons_self, hmode, (head?_eq_byteAt (by omega)).symm⟩
      rintro rfl
      cases hwant

/-- Settles O16: the log under ADVISORY, the log under the two checking policies, and the one end that raises ECHO. -/
theorem echoPolicies : Obligations.EchoPolicies := by
  refine ⟨fun i s t tx st echo hexec hx hmode hlen => ⟨advisory_log hexec hx hmode hlen, ?_⟩, ?_⟩
  · intro want k hpolicy hk hbefore hne
    obtain ⟨tr, htrace⟩ := checked_trace hexec hx hmode hlen (echoWant_eq_some hpolicy) hk hbefore hne
    rw [head?_eq_byteAt (by omega)]
    exact ⟨tr, _, rfl, by simpa [errorEvents, echoError] using htrace⟩
  · intro i s t e hexec he hkind
    obtain ⟨ix, ending, htrace, -, -, hending⟩ := exec_log hexec
    rw [newEvents_eq htrace] at he ⊢
    obtain ⟨hpolicy, tx, rx, hx, hmode, hheader⟩ := hending.of_echo_error (errorRaised_mem_logOf he) hkind
    refine ⟨hpolicy, tx, List.mem_filterMap.2 ⟨.xfer tx rx, ?_, rfl⟩, hmode, hheader⟩
    simp [logOf, hx]

end Sys2Proof.Machine
end

section
/-! SUPPORT. The transactions as host operations complete: the proofs of StrobesComplete, StatusReadsComplete,
DataReadsComplete and BurstWritesComplete (40_bus_codec.md R121 to R159). -/

namespace Sys2Proof.Machine

variable {i : Instr} {s : State} {a : Addr6} {n : Nat} {v : Bytes}

/-- A transaction handed over in READY whose body succeeds completes and stays in READY (10_state.md R25). -/
theorem Runs.completes_transaction {x : Op Value} {tx rx : Bytes} {w : Value} (hready : s.life = .ready)
    (hencode : encode i = some tx) (hexec : exec i s = runOp i x s) (hx : Runs s.cfg x [.spi tx rx] w) :
    Completes i s [.spi tx rx] w .ready := by
  rw [← hready]
  exact hx.completes hexec (hready ▸ ready_accepts_of_encode hencode)

/-! ### Strobes -/

/-- A strobe's header is its address (30_encoding.md R80). -/
theorem header_writeSingle (a : Addr6) : header .writeSingle a = a.setWidth 8 := by
  revert a; decide

theorem strobe_completes (hready : s.life = .ready) (hencode : encode i = some (frameStrobe a))
    (hexec : exec i s = runOp i (strobeBody a) s) (ha : 0x30 ≤ a.toNat ∧ a.toNat ≤ 0x3D ∧ a.toNat ≠ 0x37) (st : Byte) :
    Completes i s [.spi (frameStrobe a) [st]] .unit .ready :=
  Runs.completes_transaction hready hencode hexec ((runs_strobeAt st ha).bind (.pure _))

theorem strobe_address_range (c : StrobeCmd) :
    0x30 ≤ c.address.toNat ∧ c.address.toNat ≤ 0x3D ∧ c.address.toNat ≠ 0x37 := by
  cases c <;> decide

theorem exec_strobeInstr (c : StrobeCmd) (s : State) : exec c.instr s = runOp c.instr (strobeBody c.address) s := by
  cases c <;> rfl

/-- The statement's table is `Reset` and the named strobes in the order of their addresses. -/
theorem strobeHeaders_eq : strobeHeaders = (.resetOp, header .writeSingle (StrobeCmd.address .sres)) ::
    [.sres, .sfstxon, .sxoff, .scal, .srx, .stx, .sidle, .swor, .spwd, .sfrx, .sftx, .sworrst, .snop].map
      fun c : StrobeCmd => (c.instr, header .writeSingle c.address) := by
  decide

/-- Settles O27: `Reset` and the named strobes are the strobe at their address. -/
theorem strobesComplete : Obligations.StrobesComplete := by
  refine ⟨fun p hp s st hready => ?_, fun a s st hready ha => ?_⟩
  · rw [strobeHeaders_eq] at hp
    rcases List.mem_cons.1 hp with rfl | hp
    · exact strobe_completes hready rfl rfl (strobe_address_range .sres) st
    · obtain ⟨c, -, rfl⟩ := List.mem_map.1 hp
      exact strobe_completes hready c.encode_instr (exec_strobeInstr c s) (strobe_address_range c) st
  · rw [← header_writeSingle]
    exact strobe_completes hready rfl rfl (by omega) st

/-! ### Status reads -/

theorem statusRead_completes (hready : s.life = .ready) (hencode : encode i = some (frameReadStatus a))
    (hexec : exec i s = runOp i (statusBody a) s) (ha : 0x30 ≤ a.toNat ∧ a.toNat ≤ 0x3D) (st b : Byte) :
    Completes i s [.spi (frameReadStatus a) [st, b]] (.byte b) .ready :=
  have hlegal : legalForm ⟨.readBurst, a, 1⟩ = true := (legalForm_iff _).2 (.inr (.inl ⟨ha.1, ha.2, rfl⟩))
  Runs.completes_transaction hready hencode hexec ((runs_readStatusAt st b hlegal).bind (.pure _))

theorem status_address_range (r : StatusReg) : 0x30 ≤ r.address.toNat ∧ r.address.toNat ≤ 0x3D := by
  cases r <;> decide

theorem exec_statusInstr (r : StatusReg) (s : State) : exec r.instr s = runOp r.instr (statusBody r.address) s := by
  cases r <;> rfl

/-- The statement's table is the status registers in the order of their addresses. -/
theorem statusHeaders_eq : statusHeaders =
    [.partnum, .version, .freqest, .lqi, .rssi, .marcstate, .wortime1, .wortime0, .pktstatus, .vcoVcDac, .txbytes,
      .rxbytes, .rcctrl1Status, .rcctrl0Status].map fun r : StatusReg => (r.instr, header .readBurst r.address) := by
  decide

/-- Settles O28: the named status reads are the status read at their address. -/
theorem statusReadsComplete : Obligations.StatusReadsComplete := by
  refine ⟨fun p hp s st b hready => ?_, fun a s st b hready hlo hhi => ?_⟩
  · rw [statusHeaders_eq] at hp
    obtain ⟨r, -, rfl⟩ := List.mem_map.1 hp
    exact statusRead_completes hready r.encode_instr (exec_statusInstr r s) (status_address_range r) st b
  · exact statusRead_completes hready rfl rfl ⟨hlo, hhi⟩ st b

/-! ### Data reads -/

theorem burstRead_completes (hready : s.life = .ready) (hencode : encode i = some (frameReadBurst a n))
    (hexec : exec i s = runOp i (burstReadBody a n) s) (hlegal : legalForm ⟨.readBurst, a, n⟩ = true) (st : Byte)
    (v : Bytes) : Completes i s [.spi (frameReadBurst a n) (st :: v)] (.bytes v) .ready :=
  Runs.completes_transaction hready hencode hexec ((runs_readBurst st v hlegal).bind (.pure _))

/-- Settles O29: one single read, and the burst reads of the three legal address ranges. -/
theorem dataReadsComplete : Obligations.DataReadsComplete := by
  refine ⟨fun a s st b hready ha => ?_, fun a n s st v hready h1 hend => ?_, fun n s st v hready h1 h8 => ?_,
    fun n s st v hready h1 => ?_⟩
  · exact Runs.completes_transaction hready rfl rfl ((runs_readSingle st b ha).bind (.pure _))
  · exact burstRead_completes hready rfl rfl (legalForm_config (.inl rfl) h1 hend) st v
  · exact burstRead_completes hready rfl rfl (legalForm_patable (.inl rfl) h1 h8) st v
  · exact burstRead_completes hready rfl rfl (legalForm_fifo (.inl rfl) h1) st v

/-! ### Burst writes -/

theorem burstWrite_completes (hready : s.life = .ready) (hencode : encode i = some (frameWriteBurst a v))
    (hexec : exec i s = runOp i (burstWriteBody a v) s) (hlegal : legalForm ⟨.writeBurst, a, v.length⟩ = true)
    (rx : Bytes) : Completes i s [.spi (frameWriteBurst a v) rx] .unit .ready :=
  Runs.completes_transaction hready hencode hexec ((runs_writeBurst rx hlegal).bind (.pure _))

/-- Settles O30: the burst writes of the three legal address ranges. -/
theorem burstWritesComplete : Obligations.BurstWritesComplete := by
  refine ⟨fun a v s rx hready h1 hend => ?_, fun v s rx hready h1 h8 => ?_, fun v s rx hready h1 => ?_⟩
  · exact burstWrite_completes hready rfl rfl (legalForm_config (.inr rfl) h1 hend) rx
  · exact burstWrite_completes hready rfl rfl (legalForm_patable (.inr rfl) h1 h8) rx
  · exact burstWrite_completes hready rfl rfl (legalForm_fifo (.inr rfl) h1) rx

end Sys2Proof.Machine
end

section
/-! SUPPORT. Register fields and code tables: the proofs of MergeLaws and CodeTables (41_register_fields.md R180, R182,
R193 to R197; 43_lifecycle.md R288). -/

namespace Sys2Proof.Machine

/-! ### Fields bit by bit -/

variable {f : Field} {v : Nat}

/-- The mask covers the field's bits alone (41_register_fields.md R180). -/
theorem getLsbD_fieldMask (hle : f.lo ≤ f.hi) (k : Nat) :
    (fieldMask f).getLsbD k = decide (k < 8 ∧ f.lo ≤ k ∧ k ≤ f.hi) := by
  have hwidth : k - f.lo < fieldWidth f ↔ k ≤ f.hi := by unfold fieldWidth; omega
  rw [fieldMask, BitVec.getLsbD_ofNat, Nat.testBit_shiftLeft, Nat.one_shiftLeft, Nat.testBit_two_pow_sub_one]
  simp [hwidth]

/-- A merged byte has the value's bits inside the field and the byte's own outside it (41_register_fields.md R180). -/
theorem getLsbD_merge (hle : f.lo ≤ f.hi) (hhi : f.hi ≤ 7) (hv : v < 2 ^ fieldWidth f) (b : Byte) (k : Nat) :
    (merge b f v).getLsbD k = if f.lo ≤ k ∧ k ≤ f.hi then v.testBit (k - f.lo) else b.getLsbD k := by
  rw [merge, BitVec.getLsbD_or, BitVec.getLsbD_and, BitVec.getLsbD_not, getLsbD_fieldMask hle, BitVec.getLsbD_ofNat,
    Nat.testBit_shiftLeft]
  by_cases hin : f.lo ≤ k ∧ k ≤ f.hi
  · have hk : k < 8 := by omega
    simp [hin, hk]
  · have habove : f.lo ≤ k → v.testBit (k - f.lo) = false := fun hlo =>
      Nat.testBit_lt_two_pow (hv.trans_le (Nat.pow_le_pow_right (by omega) (by unfold fieldWidth; omega)))
    by_cases hk : k < 8
    · simpa [hin, hk] using fun hlo hbit => absurd hbit (by simp [habove hlo])
    · simp [hin, hk, BitVec.getLsbD_of_ge b k (not_lt.1 hk)]

/-- A field's value is the byte's bits from `lo` on (00_scope.md R8). -/
theorem testBit_fieldOf (b : Byte) (k : Nat) :
    (fieldOf b f).testBit k = (decide (k < fieldWidth f) && b.getLsbD (f.lo + k)) := by
  rw [fieldOf, Nat.testBit_mod_two_pow, Nat.testBit_shiftRight, BitVec.testBit_toNat]

theorem fieldOf_lt (b : Byte) (f : Field) : fieldOf b f < 2 ^ fieldWidth f := Nat.mod_lt _ (by positivity)

/-- Reading a field after merging a value gives the value (41_register_fields.md R182). -/
theorem fieldOf_merge (hle : f.lo ≤ f.hi) (hhi : f.hi ≤ 7) (hv : v < 2 ^ fieldWidth f) (b : Byte) :
    fieldOf (merge b f v) f = v := by
  refine Nat.eq_of_testBit_eq fun k => ?_
  rw [testBit_fieldOf, getLsbD_merge hle hhi hv]
  by_cases hk : k < fieldWidth f
  · have hin : f.lo + k ≤ f.hi := by unfold fieldWidth at hk; omega
    simp [hk, hin]
  · have hbit : v.testBit k = false :=
      Nat.testBit_lt_two_pow (hv.trans_le (Nat.pow_le_pow_right (by omega) (not_lt.1 hk)))
    simp [hk, hbit]

/-- Merging a field's current value changes nothing (41_register_fields.md R182). -/
theorem merge_fieldOf (hle : f.lo ≤ f.hi) (hhi : f.hi ≤ 7) (b : Byte) : merge b f (fieldOf b f) = b := by
  refine BitVec.eq_of_getLsbD_eq fun k _ => ?_
  rw [getLsbD_merge hle hhi (fieldOf_lt b f), testBit_fieldOf]
  split
  · rename_i hin
    have hwidth : k - f.lo < fieldWidth f := by unfold fieldWidth; omega
    simp [hwidth, hin.1]
  · rfl

/-- Settles O46: the bits of a merged byte, inside and outside the field. -/
theorem mergeLaws : Obligations.MergeLaws := by
  intro f b v hle hhi hv
  refine ⟨fieldOf_merge hle hhi hv b, fun k hk => ?_, merge_fieldOf hle hhi b⟩
  rw [getLsbD_merge hle hhi hv, if_neg (by omega)]

/-! ### Code tables -/

theorem modulationOfCode_unnamed {k : Nat} (h : k ∉ [0, 1, 3, 4, 7]) : modulationOfCode k = .unknown k := by
  unfold modulationOfCode
  split <;> simp at h ⊢

theorem packetLengthModeOfCode_unnamed {k : Nat} (h : 2 ≤ k) : packetLengthModeOfCode k = .unknown k := by
  unfold packetLengthModeOfCode
  split <;> simp at h ⊢

theorem marcOfCode_unnamed {k : Nat} (h : 23 ≤ k) : marcOfCode k = .unknown k := by
  unfold marcOfCode
  split <;> simp at h ⊢

/-- A length the table lacks has no code (41_register_fields.md R197). -/
theorem preambleCode?_unlisted {nbytes : Int} (h : nbytes ∉ ([2, 3, 4, 6, 8, 12, 16, 24] : List Int)) :
    preambleCode? nbytes = none := by
  rw [preambleCode?, List.findIdx?_eq_none_iff]
  exact fun n hn => decide_eq_false fun heq => h (heq ▸ (show n ∈ [2, 3, 4, 6, 8, 12, 16, 24] from hn))

/-- Settles O47: the listed names and codes by evaluation, the others by the tables' last rows. -/
theorem codeTables : Obligations.CodeTables :=
  ⟨by decide, by decide, by decide, by decide, by decide, by decide, fun _ => modulationOfCode_unnamed,
    fun _ => packetLengthModeOfCode_unnamed, fun _ => marcOfCode_unnamed, fun _ => preambleCode?_unlisted⟩

end Sys2Proof.Machine
end


section
/-! SUPPORT. The getters of the register fields complete: the proofs of RegisterGettersComplete and BurstGettersComplete
(41_register_fields.md R181, R199 to R234; 43_lifecycle.md R287). -/

namespace Sys2Proof.Machine

/-- READY accepts the operation, and its body has exactly these interactions and succeeds with the value. -/
def RunsInReady (c : Config) (i : Instr) (ix : List Interaction) (v : Value) : Prop :=
  accepts .ready i = true ∧ ∃ x, (∀ s, exec i s = runOp i x s) ∧ Runs c x ix v

variable {c : Config} {i : Instr} {s : State} {v : Value} {ix : List Interaction}

/-- An operation that hands over what its body returns. -/
theorem Runs.inReady {α : Type} {x : Op α} {g : α → Value} {a : α} (hx : Runs c x ix a)
    (haccepts : accepts .ready i = true) (hexec : ∀ s, exec i s = runOp i (do let r ← x; Pure.pure (g r)) s)
    (hv : g a = v) : RunsInReady c i ix v :=
  ⟨haccepts, _, hexec, hv ▸ List.append_nil ix ▸ hx.bind (.pure (g a))⟩

theorem RunsInReady.completes (h : RunsInReady s.cfg i ix v) (hready : s.life = .ready) :
    Completes i s ix v .ready := by
  obtain ⟨haccepts, x, hexec, hx⟩ := h
  rw [← hready]
  exact hx.completes (hexec s) (hready ▸ haccepts)

/-! ### One register -/

section

variable (st b : Byte)

theorem runs_getFilterBandwidthFP :
    Runs c getFilterBandwidthFP [.spi [0x90, 0x00] [st, b]] (fieldOf b chanbwM, fieldOf b chanbwE) :=
  (runs_readSingle st b (by decide)).bind (.pure _)

theorem runs_getModulationFormat :
    Runs c getModulationFormat [.spi [0x92, 0x00] [st, b]] (modulationOfCode (fieldOf b modFormat)) :=
  (runs_fieldGet modFormat st b (by decide)).bind (.pure _)

theorem runs_getSyncMode : Runs c getSyncMode [.spi [0x92, 0x00] [st, b]]
    (syncModeOfCode (fieldOf b syncModeField), decide (fieldOf b carrierSense = 1)) :=
  (runs_readSingle st b (by decide)).bind (.pure _)

theorem runs_getPreambleLength :
    Runs c getPreambleLength [.spi [0x93, 0x00] [st, b]] (preambleOfCode (fieldOf b numPreamble)) :=
  (runs_fieldGet numPreamble st b (by decide)).bind (.pure _)

theorem runs_getPacketLengthMode :
    Runs c getPacketLengthMode [.spi [0x88, 0x00] [st, b]] (packetLengthModeOfCode (fieldOf b lengthConfig)) :=
  (runs_fieldGet lengthConfig st b (by decide)).bind (.pure _)

theorem runs_getTransceiveMode :
    Runs c getTransceiveMode [.spi [0x88, 0x00] [st, b]] (transceiveOfCode (fieldOf b pktFormat)) :=
  (runs_fieldGet pktFormat st b (by decide)).bind (.pure _)

theorem runs_getPacketLength : Runs c getPacketLength [.spi [0x86, 0x00] [st, b]] b :=
  runs_readSingle st b (by decide)

theorem runs_readMarcstate : Runs c (readStatus .marcstate) [.spi [0xF5, 0x00] [st, b]] b :=
  runs_readStatusAt st b (by decide)

/-- A one-bit field is its bit (41_register_fields.md R181). -/
theorem decide_fieldOf_eq_one (b : Byte) (reg : Addr6) (k : Nat) :
    decide (fieldOf b ⟨reg, k, k⟩ = 1) = b.getLsbD k := by
  simp [fieldOf, fieldWidth, Nat.shiftRight_eq_div_pow, BitVec.getLsbD, Nat.testBit_eq_decide_div_mod_eq]

/-- Every getter of one register reads it once and decodes its byte (41_register_fields.md R181, R199). -/
theorem getter_runs {h : Byte} {f : Byte → Value} (hget : getterOf i = some (h, f)) :
    RunsInReady c i [.spi [h, 0x00] [st, b]] (f b) := by
  cases i with
  | getFilterBandwidthFP =>
      cases hget
      exact (runs_getFilterBandwidthFP st b).inReady rfl (fun _ => rfl) (by revert b; decide)
  | getModulationFormat =>
      cases hget
      exact (runs_getModulationFormat st b).inReady rfl (fun _ => rfl) (by revert b; decide)
  | getSyncMode => cases hget; exact (runs_getSyncMode st b).inReady rfl (fun _ => rfl) (by revert b; decide)
  | getPreambleLength =>
      cases hget
      exact (runs_getPreambleLength st b).inReady rfl (fun _ => rfl) (by revert b; decide)
  | getPacketLength => cases hget; exact (runs_getPacketLength st b).inReady rfl (fun _ => rfl) rfl
  | getPacketLengthMode =>
      cases hget
      exact (runs_getPacketLengthMode st b).inReady rfl (fun _ => rfl) (by revert b; decide)
  | getTransceiveMode =>
      cases hget
      exact (runs_getTransceiveMode st b).inReady rfl (fun _ => rfl) (by revert b; decide)
  | getChecksumEnabled =>
      cases hget
      exact (runs_fieldGet crcEn st b (by decide)).inReady rfl (fun _ => rfl) (congrArg _ (decide_fieldOf_eq_one b _ 2))
  | getDataWhiteningEnabled =>
      cases hget
      exact (runs_fieldGet whiteData st b (by decide)).inReady rfl (fun _ => rfl)
        (congrArg _ (decide_fieldOf_eq_one b _ 6))
  | getManchesterEnabled =>
      cases hget
      exact (runs_fieldGet manchesterEn st b (by decide)).inReady rfl (fun _ => rfl)
        (congrArg _ (decide_fieldOf_eq_one b _ 3))
  | getPAIndex =>
      cases hget
      exact (runs_fieldGet paPower st b (by decide)).inReady rfl (fun _ => rfl) rfl
  | getCalibrationOnWake =>
      cases hget
      exact (runs_fieldGet fsAutocal st b (by decide)).inReady rfl (fun _ => rfl) (by revert b; decide)
  | getMarcstate => cases hget; exact (runs_readMarcstate st b).inReady rfl (fun _ => rfl) rfl
  | _ => cases hget

end

/-- Settles O31: each getter's one read and its decoded byte. -/
theorem registerGettersComplete : Obligations.RegisterGettersComplete := fun _ _ _ _ st b hget hready =>
  (getter_runs st b hget).completes hready

/-! ### Bursts -/

/-- Three bytes read big-endian are one number (00_scope.md R10; 20_memory.md R59). -/
theorem unbe3_eq_ofNat (f2 f1 f0 : Byte) :
    unbe3 [f2, f1, f0] = BitVec.ofNat 24 (f2.toNat * 65536 + f1.toNat * 256 + f0.toNat) := by
  apply BitVec.eq_of_toNat_eq
  have hword : (unbe3 [f2, f1, f0]).toNat = (f2.toNat <<< 8 ||| f1.toNat) <<< 8 ||| f0.toNat := rfl
  rw [hword, ← Nat.shiftLeft_add_eq_or_of_lt f1.isLt, ← Nat.shiftLeft_add_eq_or_of_lt f0.isLt, BitVec.toNat_ofNat]
  have h2 := f2.isLt
  have h1 := f1.isLt
  have h0 := f0.isLt
  omega

theorem runs_getFrequencyWord (st f2 f1 f0 : Byte) :
    Runs c getFrequencyWord [.spi [0xCD, 0x00, 0x00, 0x00] [st, f2, f1, f0]] (unbe3 [f2, f1, f0]) :=
  (runs_readBurst st [f2, f1, f0] (by decide)).bind (.pure _)

theorem runs_getSymbolRateFP (st b4 b3 : Byte) :
    Runs c getSymbolRateFP [.spi [0xD0, 0x00, 0x00] [st, b4, b3]] (b3, fieldOf b4 drateE) :=
  (runs_readBurst st [b4, b3] (by decide)).bind (.pure _)

theorem runs_getSyncWord (st s1 s0 : Byte) :
    Runs c getSyncWord [.spi [0xC4, 0x00, 0x00] [st, s1, s0]] [s1, s0] :=
  runs_readBurst st [s1, s0] (by decide)

theorem runs_readPatable (st : Byte) (t : Bytes) :
    Runs c (readPatable patableEntries) [.spi (0xFE :: List.replicate 8 0x00) (st :: t)] t :=
  runs_readBurst st t (by decide)

theorem runs_getOutputPower (st st' b : Byte) (t : Bytes) :
    Runs c getOutputPower [.spi (0xFE :: List.replicate 8 0x00) (st :: t), .spi [0xA2, 0x00] [st', b]]
      (t.take (fieldOf b paPower + 1)) :=
  (runs_readPatable st t).bind ((runs_fieldGet paPower st' b (by decide)).bind (.pure _))

/-- Settles O32: each getter's burst, and what it makes of the bytes. -/
theorem burstGettersComplete : Obligations.BurstGettersComplete := by
  refine ⟨fun s st f2 f1 f0 hready => ?_, fun s st b4 b3 hready => ?_, fun s st s1 s0 hready => ?_,
    fun s st t hready => ?_, fun s st st' b t hready => ?_⟩ <;> refine RunsInReady.completes ?_ hready
  · exact (runs_getFrequencyWord st f2 f1 f0).inReady rfl (fun _ => rfl) (congrArg _ (unbe3_eq_ofNat f2 f1 f0))
  · exact (runs_getSymbolRateFP st b4 b3).inReady rfl (fun _ => rfl) rfl
  · exact (runs_getSyncWord st s1 s0).inReady rfl (fun _ => rfl) rfl
  · exact (runs_readPatable st t).inReady rfl (fun _ => rfl) rfl
  · exact (runs_getOutputPower st st' b t).inReady rfl (fun _ => rfl) rfl

end Sys2Proof.Machine
end


section
/-! SUPPORT. The setters of the register fields complete: the proofs of FieldSettersComplete,
WholeRegisterSettersComplete, SymbolRateSettersComplete and SetOutputPowerCompletes (41_register_fields.md R182, R201 to
R235; 42_field_conversions.md R263). -/

namespace Sys2Proof.Machine

variable {c : Config} {i : Instr} {ix : List Interaction}

/-- A check that holds has no interaction (41_register_fields.md R198). -/
theorem Runs.require_bind {α : Type} {p : Prop} [Decidable p] {e : ErrorInfo} {x : Op α} {a : α} (hp : p)
    (hx : Runs c x ix a) : Runs c (do require p e; x) ix a :=
  (runs_require hp e).bind hx

/-! ### Read-modify-write -/

/-- A read-modify-write that succeeds writes the byte under any of its names. -/
theorem Runs.inReady_of_write {x : Op Unit} {r : Interaction} {h w w' : Byte} {rx : Bytes}
    (hx : Runs c x [r, .spi [h, w] rx] ()) (haccepts : accepts .ready i = true)
    (hexec : ∀ s, exec i s = runOp i (do x; Pure.pure .unit) s) (hw : w = w') :
    RunsInReady c i [r, .spi [h, w'] rx] .unit :=
  hw ▸ hx.inReady haccepts hexec rfl

/-- PA_POWER is at bit 0 of FREND0 (41_register_fields.md R189). -/
theorem merge_paPower (b : Byte) (k : Nat) : merge b paPower k = (b &&& 0xF8) ||| BitVec.ofNat 8 k := rfl

/-- FS_AUTOCAL is at bit 4 of MCSM0 (41_register_fields.md R190). -/
theorem merge_fsAutocal (b : Byte) (k : Nat) : merge b fsAutocal k = (b &&& 0xCF) ||| BitVec.ofNat 8 (16 * k) := by
  rw [Nat.mul_comm, ← Nat.shiftLeft_eq k 4]; rfl

/-- The statement's bits of NUM_PREAMBLE are the table's code in place (41_register_fields.md R188, R197). -/
theorem preambleBits_eq (nbytes : Int) :
    preambleBits nbytes = (preambleCode? nbytes).map fun k => BitVec.ofNat 8 (k <<< numPreamble.lo) := by
  unfold preambleBits
  split_ifs with h2 h3 h4 h6 h8 h12 h16 h24
  case neg =>
    rw [preambleCode?_unlisted (by simp [*])]
    rfl
  all_goals subst nbytes; rfl

theorem runs_setPreambleLength {nbytes : Int} {k : Nat} (hk : preambleCode? nbytes = some k) (st b : Byte)
    (rx : Bytes) :
    Runs c (setPreambleLength nbytes)
      [.spi [0x93, 0x00] [st, b], .spi [0x53, merge b numPreamble k] rx] () := by
  rw [setPreambleLength, hk]
  exact runs_fieldSet numPreamble k st b rx (by decide)

theorem runs_setPAIndex {k : Int} (hk : 0 ≤ k ∧ k ≤ 7) (st b : Byte) (rx : Bytes) :
    Runs c (setPAIndex k) [.spi [0xA2, 0x00] [st, b], .spi [0x62, merge b paPower k.toNat] rx] () :=
  Runs.require_bind hk (runs_fieldSet paPower k.toNat st b rx (by decide))

theorem runs_setCalibrationOnWake {k : Int} (hk : 0 ≤ k ∧ k ≤ 3) (st b : Byte) (rx : Bytes) :
    Runs c (setCalibrationOnWake k) [.spi [0x98, 0x00] [st, b], .spi [0x58, merge b fsAutocal k.toNat] rx] () :=
  Runs.require_bind hk (runs_fieldSet fsAutocal k.toNat st b rx (by decide))

/-- The two fields of the filter bandwidth in place (41_register_fields.md R185, R205). -/
theorem filterBandwidth_bits {m e : Int} (hm : 0 ≤ m ∧ m ≤ 3) (he : 0 ≤ e ∧ e ≤ 3) :
    (BitVec.ofInt 8 e <<< 6) ||| (BitVec.ofInt 8 m <<< 4) = BitVec.ofInt 8 (64 * e + 16 * m) := by
  obtain ⟨hm0, hm3⟩ := hm
  obtain ⟨he0, he3⟩ := he
  interval_cases m <;> interval_cases e <;> rfl

/-- Every read-modify-write setter reads its register and writes the byte read with its field replaced
(41_register_fields.md R182, R205, R209). -/
theorem setter_runs {a : Byte} {f : Byte → Byte} (hset : setterOf i = some (a, f)) (st b : Byte) (rx : Bytes) :
    RunsInReady c i [.spi [a ||| 0x80, 0x00] [st, b], .spi [a ||| 0x40, f b] rx] .unit := by
  cases i with
  | setFilterBandwidthFP m e =>
      simp only [setterOf] at hset
      split_ifs at hset with h
      obtain ⟨hm0, hm3, he0, he3⟩ := h
      cases hset
      have hbody : Runs c (setFilterBandwidthFP m e) _ _ :=
        Runs.require_bind ⟨hm0, hm3⟩ (Runs.require_bind ⟨he0, he3⟩ (runs_readModifyWrite _ st b rx (by decide)))
      refine hbody.inReady_of_write rfl (fun _ => rfl) ?_
      rw [BitVec.or_assoc, filterBandwidth_bits ⟨hm0, hm3⟩ ⟨he0, he3⟩]
      rfl
  | setModulationFormat f =>
      cases hset
      exact (runs_fieldSet modFormat (modulationCode f) st b rx (by decide)).inReady_of_write rfl (fun _ => rfl)
        (by cases f <;> rfl)
  | setSyncMode mode cs =>
      cases hset
      refine (runs_readModifyWrite (syncModeByte mode cs) st b rx (a := ConfigReg.address .mdmcfg2)
        (by decide)).inReady_of_write rfl (fun _ => rfl) ?_
      revert b
      rcases cs with _ | _ | _ <;> cases mode <;> decide
  | setPreambleLength nbytes =>
      simp only [setterOf, preambleBits_eq, Option.map_map, Option.map_eq_some_iff] at hset
      obtain ⟨k, hk, h⟩ := hset
      cases h
      exact (runs_setPreambleLength hk st b rx).inReady_of_write rfl (fun _ => rfl) rfl
  | setPacketLengthMode mode =>
      cases hset
      exact (runs_fieldSet lengthConfig (packetLengthModeCode mode) st b rx (by decide)).inReady_of_write rfl
        (fun _ => rfl) (by cases mode <;> rfl)
  | setTransceiveMode t =>
      cases hset
      exact (runs_fieldSet pktFormat (transceiveCode t) st b rx (by decide)).inReady_of_write rfl (fun _ => rfl)
        (by cases t <;> rfl)
  | enableChecksum =>
      cases hset
      exact (runs_fieldSet crcEn 1 st b rx (by decide)).inReady_of_write rfl (fun _ => rfl) (by revert b; decide)
  | disableChecksum =>
      cases hset
      exact (runs_fieldSet crcEn 0 st b rx (by decide)).inReady_of_write rfl (fun _ => rfl) (by revert b; decide)
  | enableDataWhitening =>
      cases hset
      exact (runs_fieldSet whiteData 1 st b rx (by decide)).inReady_of_write rfl (fun _ => rfl) (by revert b; decide)
  | disableDataWhitening =>
      cases hset
      exact (runs_fieldSet whiteData 0 st b rx (by decide)).inReady_of_write rfl (fun _ => rfl) (by revert b; decide)
  | enableManchester =>
      cases hset
      exact (runs_fieldSet manchesterEn 1 st b rx (by decide)).inReady_of_write rfl (fun _ => rfl) (by revert b; decide)
  | disableManchester =>
      cases hset
      exact (runs_fieldSet manchesterEn 0 st b rx (by decide)).inReady_of_write rfl (fun _ => rfl) (by revert b; decide)
  | setPAIndex k =>
      simp only [setterOf] at hset
      split_ifs at hset with h
      cases hset
      refine (runs_setPAIndex h st b rx).inReady_of_write rfl (fun _ => rfl) ?_
      rw [merge_paPower, ← BitVec.ofInt_natCast, Int.toNat_of_nonneg h.1]
  | setCalibrationOnWake k =>
      simp only [setterOf] at hset
      split_ifs at hset with h
      cases hset
      refine (runs_setCalibrationOnWake h st b rx).inReady_of_write rfl (fun _ => rfl) ?_
      rw [merge_fsAutocal, ← BitVec.ofInt_natCast, Nat.cast_mul, Int.toNat_of_nonneg h.1]
      rfl
  | _ => cases hset

/-- Settles O34: each setter's read and write, by the byte it writes. -/
theorem fieldSettersComplete : Obligations.FieldSettersComplete := fun _ _ _ _ st b rx hset hready =>
  (setter_runs hset st b rx).completes hready

/-! ### Whole registers -/

/-- The bytes of a word given as an integer (00_scope.md R10). -/
theorem be3_ofInt (w : Int) :
    be3 (BitVec.ofInt 24 w) = [BitVec.ofInt 8 (w / 65536), BitVec.ofInt 8 (w / 256), BitVec.ofInt 8 w] := by
  simp only [be3, List.cons.injEq, and_true]
  refine ⟨?_, ?_, ?_⟩ <;> apply BitVec.eq_of_toNat_eq <;>
    simp only [BitVec.extractLsb'_toNat, BitVec.toNat_ofInt, Nat.shiftRight_eq_div_pow] <;> omega

theorem runs_setFrequencyWord {w : Int} (hw : 0 ≤ w ∧ w < 2 ^ 24) (rx : Bytes) :
    Runs c (setFrequencyWord w) [.spi (0x4D :: be3 (BitVec.ofInt 24 w)) rx] () :=
  Runs.require_bind hw (runs_writeBurst (v := be3 (BitVec.ofInt 24 w)) rx rfl)

theorem runs_setSyncWord {v : Bytes} (hv : v.length = 2) (rx : Bytes) :
    Runs c (setSyncWord v) [.spi (0x44 :: v) rx] () :=
  Runs.require_bind hv (runs_writeBurst rx (by rw [hv]; decide))

theorem runs_setPacketLength {n : Int} (hn : 1 ≤ n ∧ n ≤ 255) (rx : Bytes) :
    Runs c (setPacketLength n) [.spi [0x46, BitVec.ofInt 8 n] rx] () :=
  Runs.require_bind hn (runs_writeBurst rx rfl)

/-- Every setter of whole registers sends its one frame (41_register_fields.md R201, R211, R215). -/
theorem wholeWrite_runs {tx : Bytes} (h : wholeWriteOf i = some tx) (rx : Bytes) :
    RunsInReady c i [.spi tx rx] .unit := by
  cases i with
  | setFrequencyWord w =>
      obtain ⟨hw, htx⟩ := Option.ite_some_none_eq_some.1 h
      rw [← htx, ← be3_ofInt]
      exact (runs_setFrequencyWord hw rx).inReady rfl (fun _ => rfl) rfl
  | setSyncWord v =>
      obtain ⟨hv, rfl⟩ := Option.ite_some_none_eq_some.1 h
      exact (runs_setSyncWord hv rx).inReady rfl (fun _ => rfl) rfl
  | setPacketLength n =>
      obtain ⟨hn, rfl⟩ := Option.ite_some_none_eq_some.1 h
      exact (runs_setPacketLength hn rx).inReady rfl (fun _ => rfl) rfl
  | _ => cases h

/-- Settles O35: each setter's one burst write. -/
theorem wholeRegisterSettersComplete : Obligations.WholeRegisterSettersComplete := fun _ _ _ rx h hready =>
  (wholeWrite_runs h rx).completes hready

/-! ### Symbol rate -/

/-- The scaled mantissa of a positive rate, before rounding, is from 0 to below 256 (42_field_conversions.md R253). -/
theorem mantissa_bounds {q : Rat} (hq : 0 < q) :
    0 ≤ q * 2 ^ 28 / 2 ^ (flog2 q + 20) - 256 ∧ q * 2 ^ 28 / 2 ^ (flog2 q + 20) - 256 < 256 := by
  have hpow : (0 : Rat) < 2 ^ flog2 q := by positivity
  have hscale : q * 2 ^ 28 / 2 ^ (flog2 q + 20) = q / 2 ^ flog2 q * 256 := by
    rw [zpow_add₀ two_ne_zero]
    field_simp
    norm_num
  have hlow : 1 ≤ q / 2 ^ flog2 q := (one_le_div hpow).2 (zpow_flog2_le hq)
  have hhigh : q / 2 ^ flog2 q < 2 := by
    rw [div_lt_iff₀ hpow, mul_comm, ← zpow_add_one₀ two_ne_zero]
    exact lt_zpow_flog2_add_one hq
  rw [hscale]
  constructor <;> linarith

/-- Rounding keeps a number inside integer bounds (00_scope.md R11). -/
theorem roundHalfEven_mem {q : Rat} {lo hi : Int} (hlo : lo ≤ q) (hhi : q ≤ hi) :
    lo ≤ roundHalfEven q ∧ roundHalfEven q ≤ hi := by
  have hround := abs_le.1 (abs_roundHalfEven_sub_le q)
  constructor
  · have : ((lo : Rat) - 1) < roundHalfEven q := by linarith
    exact_mod_cast Int.le_of_sub_one_lt (by exact_mod_cast this)
  · have : (roundHalfEven q : Rat) < hi + 1 := by linarith
    exact Int.lt_add_one_iff.1 (by exact_mod_cast this)

theorem roundHalfEven_mantissa {q : Rat} (hq : 0 < q) :
    0 ≤ roundHalfEven (q * 2 ^ 28 / 2 ^ (flog2 q + 20) - 256) ∧
      roundHalfEven (q * 2 ^ 28 / 2 ^ (flog2 q + 20) - 256) ≤ 256 := by
  obtain ⟨hlow, hhigh⟩ := mantissa_bounds hq
  exact roundHalfEven_mem (by rw [Int.cast_zero]; exact hlow) (by rw [Int.cast_ofNat]; exact hhigh.le)

/-- The mantissa is a byte: 256 is carried into the exponent (42_field_conversions.md R253, R256). -/
theorem baudToFp_mantissa {baud : Rat} (hbaud : 0 < baud) :
    0 ≤ (baudToFp c baud).1 ∧ (baudToFp c baud).1 ≤ 255 := by
  have hcrystal : (0 : Rat) < c.crystalHz := by exact_mod_cast c.crystalPos
  have hround := roundHalfEven_mantissa (div_pos hbaud hcrystal)
  have harg : baud * 268435456 / c.crystalHz / pow2 (flog2 (baud / c.crystalHz) + 20) - 256 =
      baud / c.crystalHz * 2 ^ 28 / 2 ^ (flog2 (baud / c.crystalHz) + 20) - 256 := by
    rw [pow2_eq_zpow, div_mul_eq_mul_div]
    norm_num
  simp only [baudToFp, harg]
  split <;> omega

theorem runs_setSymbolRateFP {m e : Int} (hm : 0 ≤ m ∧ m ≤ 255) (he : 0 ≤ e ∧ e ≤ 15) (st b4 : Byte) (rx : Bytes) :
    Runs c (setSymbolRateFP m e)
      [.spi [0x90, 0x00] [st, b4], .spi [0x50, (b4 &&& 0xF0) ||| BitVec.ofInt 8 e, BitVec.ofInt 8 m] rx] () :=
  Runs.require_bind hm (Runs.require_bind he ((runs_readSingle st b4 (by decide)).bind (runs_writeBurst rx rfl)))

theorem runs_setSymbolRateBaud {baud : Baud} (hbaud : 0 < baud.val) {m e : Int} (hfp : baudToFp c baud.val = (m, e))
    (he : 0 ≤ e ∧ e ≤ 15) (st b4 : Byte) (rx : Bytes) :
    Runs c (setSymbolRateBaud baud)
      [.spi [0x90, 0x00] [st, b4], .spi [0x50, (b4 &&& 0xF0) ||| BitVec.ofInt 8 e, BitVec.ofInt 8 m] rx] () := by
  have hm : 0 ≤ m ∧ m ≤ 255 := by simpa [hfp] using baudToFp_mantissa (c := c) hbaud
  refine runs_getCfg.bind (Runs.require_bind hbaud.ne' ?_)
  rw [hfp]
  exact Runs.require_bind he (runs_setSymbolRateFP hm he st b4 rx)

/-- Settles O36: the read and the write, for a mantissa given or converted. -/
theorem symbolRateSettersComplete : Obligations.SymbolRateSettersComplete := by
  refine ⟨fun m e s st b4 rx hready hm hm' he he' => ?_, fun baud s st b4 rx m e hready hbaud hfp he he' => ?_⟩ <;>
    refine RunsInReady.completes ?_ hready
  · exact (runs_setSymbolRateFP ⟨hm, hm'⟩ ⟨he, he'⟩ st b4 rx).inReady rfl (fun _ => rfl) rfl
  · exact (runs_setSymbolRateBaud hbaud hfp ⟨he, he'⟩ st b4 rx).inReady rfl (fun _ => rfl) rfl

/-! ### Output power -/

theorem firstBadValue_eq_find? : ∀ (k : Nat) (values : List Int), firstBadValue k values =
    ((values.zipIdx k).find? fun p => decide (¬(0 ≤ p.1 ∧ p.1 ≤ 255))).map fun p => (p.2, p.1)
  | _, [] => rfl
  | k, v :: vs => by
      rw [firstBadValue, firstBadValue_eq_find? (k + 1) vs, List.zipIdx_cons, List.find?_cons]
      by_cases hv : 0 ≤ v ∧ v ≤ 255 <;> simp [hv]

theorem firstBadValue_eq_none {values : List Int} (h : ∀ v ∈ values, 0 ≤ v ∧ v ≤ 255) (k : Nat) :
    firstBadValue k values = none := by
  rw [firstBadValue_eq_find?, Option.map_eq_none_iff, List.find?_eq_none]
  exact fun p hp => by simpa using h p.1 (List.fst_mem_of_mem_zipIdx hp)

theorem runs_setOutputPower {values : List Int} (h1 : 1 ≤ values.length) (h8 : values.length ≤ 8)
    (hvalues : ∀ v ∈ values, 0 ≤ v ∧ v ≤ 255) (rx : Bytes) (st b : Byte) (rx' : Bytes) :
    Runs c (setOutputPower values)
      [.spi (0x7E :: values.map (BitVec.ofInt 8)) rx, .spi [0xA2, 0x00] [st, b],
       .spi [0x62, merge b paPower (values.length - 1)] rx'] () := by
  have hlegal : legalForm ⟨.writeBurst, patableAddr, (values.map (BitVec.ofInt 8)).length⟩ = true :=
    legalForm_patable (.inr rfl) (by simpa using h1) (by simpa using h8)
  refine Runs.require_bind ⟨h1, h8⟩ ?_
  rw [firstBadValue_eq_none hvalues]
  exact (runs_writeBurst rx hlegal).bind (runs_fieldSet paPower _ st b rx' (by decide))

/-- Settles O38: the table's write, then the index by read-modify-write. -/
theorem setOutputPowerCompletes : Obligations.SetOutputPowerCompletes := by
  intro values s rx st b rx' hready h1 h8 hvalues
  refine RunsInReady.completes ?_ hready
  exact (runs_setOutputPower h1 h8 hvalues rx st b rx').inReady rfl (fun _ => rfl) rfl

end Sys2Proof.Machine
end


section
/-! SUPPORT. Arguments out of range, and the proof of ArgumentErrors (41_register_fields.md R198; 60_exceptions.md R352,
R361). -/

namespace Sys2Proof.Machine

variable {c : Config} {i : Instr} {e : ErrorInfo}

/-- READY accepts the operation, and its body raises this ConfigurationError before any interaction. -/
def RejectsArguments (c : Config) (i : Instr) (e : ErrorInfo) : Prop :=
  kindClass e.kind = .configurationError ∧ accepts .ready i = true ∧
    ∃ x, (∀ s, exec i s = runOp i x s) ∧ Raises c x [] e

theorem Raises.rejectsArguments {x : Op Unit} (hx : Raises c x [] e)
    (hexec : ∀ s, exec i s = runOp i (do x; pure .unit) s) (haccepts : accepts .ready i = true)
    (hclass : kindClass e.kind = .configurationError) : RejectsArguments c i e :=
  ⟨hclass, haccepts, _, hexec, hx.bind_left⟩

/-- A check that fails ends the operation (41_register_fields.md R198). -/
theorem Raises.require_bind {α : Type} {p : Prop} [Decidable p] {x : Op α} (hp : ¬p) :
    Raises c (do require p e; x) [] e :=
  (raises_require hp e).bind_left

/-- A check that holds leaves the error to what follows it (60_exceptions.md R361). -/
theorem Raises.after_require {α : Type} {p : Prop} [Decidable p] {e' : ErrorInfo} {x : Op α} (hp : p)
    (hx : Raises c x [] e) : Raises c (do require p e'; x) [] e :=
  .bind_right (runs_require hp e') hx

theorem raises_setPreambleLength {nbytes : Int} (h : nbytes ∉ ([2, 3, 4, 6, 8, 12, 16, 24] : List Int)) :
    Raises c (setPreambleLength nbytes) [] (configError .preambleLength 0x13 nbytes) := by
  rw [setPreambleLength, preambleCode?_unlisted h]
  exact .raise _

theorem raises_setOutputPower_value {values : List Int} (hlen : 1 ≤ values.length ∧ values.length ≤ 8) {k : Nat}
    {v : Int} (hbad : firstBadValue 0 values = some (k, v)) :
    Raises c (setOutputPower values) [] { kind := .patableValue, reg := some 0x3E, value := some (.pair k v) } := by
  refine .after_require hlen ?_
  rw [hbad]
  exact .raise _

/-- Every operation checks its arguments in its rule's order, before any transfer (41_register_fields.md R198). -/
theorem argumentError_rejects (h : argumentError c i = some e) : RejectsArguments c i e := by
  cases i with
  | setFrequencyWord | setSyncWord | setPacketLength | setPAIndex | setCalibrationOnWake =>
      simp only [argumentError] at h
      split_ifs at h with hcheck
      cases h
      exact (Raises.require_bind hcheck).rejectsArguments (fun _ => rfl) rfl rfl
  | setSymbolRateFP m e' =>
      simp only [argumentError] at h
      split_ifs at h with hm he <;> cases h
      · have hbody : Raises c (setSymbolRateFP m e') [] _ := .after_require hm (.require_bind he)
        exact hbody.rejectsArguments (fun _ => rfl) rfl rfl
      · exact (Raises.require_bind hm).rejectsArguments (fun _ => rfl) rfl rfl
  | setFilterBandwidthFP m e' =>
      simp only [argumentError] at h
      split_ifs at h with hm he <;> cases h
      · have hbody : Raises c (setFilterBandwidthFP m e') [] _ := .after_require hm (.require_bind he)
        exact hbody.rejectsArguments (fun _ => rfl) rfl rfl
      · exact (Raises.require_bind hm).rejectsArguments (fun _ => rfl) rfl rfl
  | setPreambleLength nbytes =>
      simp only [argumentError] at h
      split_ifs at h with hlisted
      cases h
      exact (raises_setPreambleLength hlisted).rejectsArguments (fun _ => rfl) rfl rfl
  | setOutputPower values =>
      simp only [argumentError] at h
      split_ifs at h with hlen
      · obtain ⟨p, hp, rfl⟩ := Option.map_eq_some_iff.1 h
        have hbad : firstBadValue 0 values = some (p.2, p.1) := by rw [firstBadValue_eq_find?, hp]; rfl
        exact (raises_setOutputPower_value hlen hbad).rejectsArguments (fun _ => rfl) rfl rfl
      · cases h
        exact (Raises.require_bind hlen).rejectsArguments (fun _ => rfl) rfl rfl
  | setBaseFrequencyHz hz =>
      simp only [argumentError] at h
      split_ifs at h with hword
      cases h
      have hbody : Raises c (setBaseFrequencyHz hz) [] _ := .bind_right runs_getCfg (.require_bind (not_le.2 hword))
      exact hbody.rejectsArguments (fun _ => rfl) rfl rfl
  | setSymbolRateBaud baud =>
      simp only [argumentError] at h
      split_ifs at h with hbaud he <;> cases h
      · have hbody : Raises c (setSymbolRateBaud baud) [] _ :=
          .bind_right runs_getCfg (.require_bind (not_not.2 hbaud))
        exact hbody.rejectsArguments (fun _ => rfl) rfl rfl
      · have hbody : Raises c (setSymbolRateBaud baud) [] _ :=
          .bind_right runs_getCfg (.after_require hbaud (.require_bind he))
        exact hbody.rejectsArguments (fun _ => rfl) rfl rfl
  | transmit payload =>
      simp only [argumentError] at h
      split_ifs at h with hempty
      cases h
      have hbody : Raises c (transmit payload) [] _ := .require_bind (by simp [hempty])
      exact hbody.rejectsArguments (fun _ => rfl) rfl rfl
  | _ => cases h

/-- But for `Open` and `Close`, a ConfigurationError keeps the lifecycle state (60_exceptions.md R360). -/
theorem lifeAfterError_of_configurationError (hopen : i ≠ .openOp) (hclose : i ≠ .closeOp)
    (hclass : kindClass e.kind = .configurationError) (l : Life) : lifeAfterError l ⟨i, e⟩ = l := by
  simp [lifeAfterError, hopen, hclose, hclass]

/-- Settles O17: each operation's first failing check, which leaves READY. -/
theorem argumentErrors : Obligations.ArgumentErrors := by
  intro i s e hready h
  obtain ⟨hclass, haccepts, x, hexec, hx⟩ := argumentError_rejects h
  have hopen : i ≠ .openOp := by rintro rfl; cases h
  have hclose : i ≠ .closeOp := by rintro rfl; cases h
  have hlife := lifeAfterError_of_configurationError hopen hclose hclass s.life
  have hfails := hx.fails (hexec s) (hready ▸ haccepts)
  rw [hlife, hready] at hfails
  exact ⟨hclass, hfails⟩

end Sys2Proof.Machine
end


section
/-! SUPPORT. Setters and getters over the reference responder, and the proof of SetterThenGetter (20_memory.md R71;
41_register_fields.md R200 to R235; 42_field_conversions.md R250 to R253, R260, R261, R263, R264). -/

namespace Sys2Proof.Machine

variable {c : Config} {p : EchoPolicy} {i g : Instr} {v : Value} {s t : State} {r r' r'' : Responder}
  {ix iy : List Interaction}

/-! ### What the responder answers to some interactions -/

/-- The responder gives the answers of the interactions, in order, under the policy, and becomes `r'`. -/
def Answers (p : EchoPolicy) (r : Responder) (ix : List Interaction) (r' : Responder) : Prop :=
  ∀ tr, ∃ tr', interact p (.responder r) tr ix = some (.responder r', tr')

theorem Answers.nil : Answers p r [] r := fun tr => ⟨tr, rfl⟩

theorem Answers.note (w : Warning) : Answers p r [.note w] r := fun _ => ⟨_, rfl⟩

theorem Answers.append (h : Answers p r ix r') (h' : Answers p r' iy r'') : Answers p r (ix ++ iy) r'' := by
  intro tr
  obtain ⟨tr', htr'⟩ := h tr
  rw [interact_append, htr']
  exact h' tr'

/-- The policies accept the responder's echo (40_bus_codec.md R121). -/
theorem echoPasses_answer (hstatus : p = .match0F → r.status = 0x0F) (tx : Bytes) :
    echoPasses p tx (r.answer tx).1 = true := by
  have hecho : headerMode (byteAt tx 0) = .writeBurst → ∀ b ∈ (r.answer tx).1.drop 1, b = r.status :=
    fun hmode b hb => List.eq_of_mem_replicate (r.answer_writeBurst hmode ▸ List.mem_of_mem_drop hb)
  cases p with
  | advisory => rfl
  | matchStatus =>
      refine decide_eq_true fun hmode b hb => ?_
      have hpos : 0 < tx.length := List.length_pos_iff.2 (by rintro rfl; cases hmode)
      rw [hecho hmode b hb, r.answer_writeBurst hmode, byteAt_replicate _ hpos]
  | match0F => exact decide_eq_true fun hmode b hb => (hecho hmode b hb).trans (hstatus rfl)

theorem Answers.spi {tx rx : Bytes} (hstatus : p = .match0F → r.status = 0x0F) (htx : r.answer tx = (rx, r')) :
    Answers p r [.spi tx rx] r' := by
  obtain ⟨rfl, rfl⟩ : (r.answer tx).1 = rx ∧ (r.answer tx).2 = r' := by rw [htx]; exact ⟨rfl, rfl⟩
  exact fun tr => ⟨_, if_pos ⟨rfl, r.answer_length tx, echoPasses_answer hstatus tx⟩⟩

/-- The setter and the getter run over the responder, and the getter answers the value. -/
def ReadsBack (c : Config) (r : Responder) (i g : Instr) (v : Value) : Prop :=
  ∃ ix iy r' r'', RunsInReady c i ix .unit ∧ RunsInReady c g iy v ∧ Answers c.echoPolicy r ix r' ∧
    Answers c.echoPolicy r' iy r''

theorem ReadsBack.exec (h : ReadsBack s.cfg r i g v) (hready : s.life = .ready) (henv : s.env = .responder r)
    (hexec : exec i s = .next t) :
    ∃ u, exec g t = .next u ∧ u.trace.getLast? = some (.opEnd (.ok v)) ∧ u.life = .ready := by
  obtain ⟨ix, iy, r', r'', hset, hget, hix, hiy⟩ := h
  obtain ⟨tr, htr⟩ := hix (s.trace ++ [.opStart (.op i)])
  rw [← henv] at htr
  obtain ⟨hready', henv', hcfg⟩ : t.life = .ready ∧ t.env = .responder r' ∧ t.cfg = s.cfg := by
    cases (hset.completes hready _ _ htr).symm.trans hexec
    exact ⟨rfl, rfl, rfl⟩
  rw [← hcfg] at hget hiy
  obtain ⟨tr', htr'⟩ := hiy (t.trace ++ [.opStart (.op g)])
  rw [← henv'] at htr'
  exact ⟨_, hget.completes hready' _ _ htr', by simp, rfl⟩

/-! ### Writing registers and reading them again -/

/-- The responder after a burst write of configuration registers (20_memory.md R71). -/
def Responder.wrote (r : Responder) (a : Addr6) (w : Bytes) : Responder :=
  { r with regs := memWriteBytes .config r.regs a.toNat w }

/-- What was written is read back (20_memory.md R57). -/
theorem memReadBytes_memWriteBytes {k : Bank} {m : Memory} {a : Nat} {w : Bytes} (hfits : a + w.length ≤ bankSize k)
    (hm : Memory.wf k m = true) : memReadBytes k (memWriteBytes k m a w) a w.length = w := by
  refine List.ext_getElem (by simp) fun j _ hj => ?_
  simp [memReadBytes_eq_map, memRead_memWriteBytes k _ hfits hm, hj]

section

variable {a : Addr6} {w : Bytes} {pre : List Interaction} (hstatus : c.echoPolicy = .match0F → r.status = 0x0F)
  (hregs : Memory.wf .config r.regs = true)

include hstatus

theorem answers_readSingle (ha : a.toNat ≤ 0x2E) :
    Answers c.echoPolicy r [.spi (frameReadSingle a) [r.status, memRead .config r.regs a.toNat]] r :=
  .spi hstatus (r.answer_readSingle ha)

theorem answers_writeConfig (h1 : 1 ≤ w.length) (ha : a.toNat + w.length - 1 ≤ 0x2E) :
    Answers c.echoPolicy r [.spi (frameWriteBurst a w) (List.replicate (w.length + 1) r.status)] (r.wrote a w) :=
  .spi hstatus (r.answer_writeConfig h1 ha)

include hregs

/-- A register written is read back. -/
theorem answers_readSingle_wrote {b : Byte} (ha : a.toNat ≤ 0x2E) :
    Answers c.echoPolicy (r.wrote a [b]) [.spi (frameReadSingle a) [r.status, b]] (r.wrote a [b]) := by
  have hback : memRead .config (r.wrote a [b]).regs a.toNat = b := by
    rw [Responder.wrote, memRead_memWriteBytes .config _ (by simp [bankSize]; omega) hregs]
    simp
  have hread := answers_readSingle (r := r.wrote a [b]) hstatus ha
  rwa [hback] at hread

/-- A burst of registers written is read back. -/
theorem answers_readBurst_wrote (h1 : 1 ≤ w.length) (ha : a.toNat + w.length - 1 ≤ 0x2E) :
    Answers c.echoPolicy (r.wrote a w) [.spi (frameReadBurst a w.length) (r.status :: w)] (r.wrote a w) := by
  have hread := (r.wrote a w).answer_readConfig h1 ha
  rw [Responder.wrote, memReadBytes_memWriteBytes (by simp only [bankSize]; omega) hregs] at hread
  exact .spi hstatus hread

/-- A setter that ends with a write of one register, and the getter that reads the register. -/
theorem readsBack_single {b : Byte} (ha : a.toNat ≤ 0x2E) (hpre : Answers c.echoPolicy r pre r)
    (hset : ∀ rx, RunsInReady c i (pre ++ [.spi (frameWriteBurst a [b]) rx]) .unit)
    (hget : RunsInReady c g [.spi (frameReadSingle a) [r.status, b]] v) : ReadsBack c r i g v :=
  ⟨_, _, _, _, hset _, hget, hpre.append (answers_writeConfig hstatus (by simp) (by simpa using ha)),
    answers_readSingle_wrote hstatus hregs ha⟩

/-- A setter that ends with a burst write, and the getter that reads the burst. -/
theorem readsBack_burst (h1 : 1 ≤ w.length) (ha : a.toNat + w.length - 1 ≤ 0x2E) (hpre : Answers c.echoPolicy r pre r)
    (hset : ∀ rx, RunsInReady c i (pre ++ [.spi (frameWriteBurst a w) rx]) .unit)
    (hget : RunsInReady c g [.spi (frameReadBurst a w.length) (r.status :: w)] v) : ReadsBack c r i g v :=
  ⟨_, _, _, _, hset _, hget, hpre.append (answers_writeConfig hstatus h1 ha),
    answers_readBurst_wrote hstatus hregs h1 ha⟩

/-- A read-modify-write setter and the getter of the same register, by the statement's tables. -/
theorem readsBack_register {f : Byte → Byte} {d : Byte → Value} (ha : a.toNat ≤ 0x2E)
    (hset : setterOf i = some (a.setWidth 8, f)) (hget : getterOf g = some (a.setWidth 8 ||| 0x80, d))
    (hv : d (f (memRead .config r.regs a.toNat)) = v) : ReadsBack c r i g v :=
  readsBack_single hstatus hregs ha (answers_readSingle hstatus ha) (fun rx => setter_runs hset _ _ rx)
    (hv ▸ getter_runs _ _ hget)

/-- A setter that merges a value into a field, and the getter that decodes the field. -/
theorem readsBack_field {F : Field} {k : Nat} {d : Nat → Value} (hF : F.reg.toNat ≤ 0x2E ∧ F.lo ≤ F.hi ∧ F.hi ≤ 7)
    (hk : k < 2 ^ fieldWidth F)
    (hset : ∀ st b rx, RunsInReady c i
      [.spi (frameReadSingle F.reg) [st, b], .spi (frameWriteBurst F.reg [merge b F k]) rx] .unit)
    (hget : ∀ st b, RunsInReady c g [.spi (frameReadSingle F.reg) [st, b]] (d (fieldOf b F))) (hv : d k = v) :
    ReadsBack c r i g v := by
  obtain ⟨ha, hle, hhi⟩ := hF
  have hget' := hget r.status (merge (memRead .config r.regs F.reg.toNat) F k)
  rw [fieldOf_merge hle hhi hk, hv] at hget'
  exact readsBack_single hstatus hregs ha (answers_readSingle hstatus ha) (fun rx => hset _ _ rx) hget'

/-- A one-bit setter and its getter (41_register_fields.md R218 to R228). -/
theorem readsBack_flag {F : Field} {on : Bool} (hF : F.reg.toNat ≤ 0x2E ∧ F.lo ≤ F.hi ∧ F.hi ≤ 7)
    (haccepts : accepts .ready i = true) (haccepts' : accepts .ready g = true)
    (hset : ∀ s, exec i s = runOp i (flagSet F on.toNat) s) (hget : ∀ s, exec g s = runOp g (flagGet F) s) :
    ReadsBack c r i g (.flag on) := by
  have hone : 1 < 2 ^ fieldWidth F := Nat.one_lt_two_pow (by simp [fieldWidth])
  refine readsBack_field (k := on.toNat) (d := fun k => .flag (decide (k = 1))) hstatus hregs hF
    ((Bool.toNat_le on).trans_lt hone)
    (fun st b rx => (runs_fieldSet F _ st b rx hF.1).inReady haccepts hset rfl)
    (fun st b => (runs_fieldGet F st b hF.1).inReady haccepts' hget rfl) ?_
  cases on <;> rfl

end

/-! ### The values read back -/

theorem unbe3_be3 (w : Word24) : unbe3 (be3 w) = w := by
  have hbytes : be3 w = [w.extractLsb' 16 8, w.extractLsb' 8 8, w.extractLsb' 0 8] := rfl
  apply BitVec.eq_of_toNat_eq
  rw [hbytes, unbe3_eq_ofNat]
  simp only [BitVec.toNat_ofNat, BitVec.extractLsb'_toNat, Nat.shiftRight_eq_div_pow]
  have hw := w.isLt
  omega

theorem merge_drateE (b : Byte) (k : Nat) : merge b drateE k = (b &&& 0xF0) ||| BitVec.ofNat 8 k := rfl

/-- The exponent written is the exponent read (41_register_fields.md R202, R203). -/
theorem fieldOf_drateE_written {e : Int} (he : 0 ≤ e ∧ e ≤ 15) (b : Byte) :
    fieldOf ((b &&& 0xF0) ||| BitVec.ofInt 8 e) drateE = e.toNat := by
  obtain ⟨k, rfl⟩ := Int.eq_ofNat_of_zero_le he.1
  rw [BitVec.ofInt_natCast, ← merge_drateE]
  exact fieldOf_merge (by decide) (by decide) (by simp [fieldWidth, drateE]; omega) b

/-- The two fields of the filter bandwidth written are those read (41_register_fields.md R204, R205). -/
theorem filterBandwidth_written {m e : Int} (hm : 0 ≤ m ∧ m ≤ 3) (he : 0 ≤ e ∧ e ≤ 3) (b : Byte) :
    ((b &&& 0x0F) ||| BitVec.ofInt 8 (64 * e + 16 * m)).toNat / 16 % 4 = m.toNat ∧
      ((b &&& 0x0F) ||| BitVec.ofInt 8 (64 * e + 16 * m)).toNat / 64 = e.toNat := by
  obtain ⟨j, rfl⟩ := Int.eq_ofNat_of_zero_le hm.1
  obtain ⟨k, rfl⟩ := Int.eq_ofNat_of_zero_le he.1
  have hmerge : (b &&& 0x0F) ||| BitVec.ofInt 8 (64 * k + 16 * j) = merge b ⟨0x10, 7, 4⟩ (4 * k + j) := by
    rw [show (64 * k + 16 * j : Int) = ((4 * k + j) * 2 ^ 4 : Nat) by push_cast; ring, BitVec.ofInt_natCast,
      ← Nat.shiftLeft_eq]
    rfl
  have hfield := fieldOf_merge (f := ⟨0x10, 7, 4⟩) (v := 4 * k + j) (by decide) (by decide)
    (by simp [fieldWidth]; omega) b
  rw [hmerge]
  simp only [fieldOf, fieldWidth, Nat.shiftRight_eq_div_pow] at hfield
  have hbyte := (merge b ⟨0x10, 7, 4⟩ (4 * k + j)).isLt
  omega

/-! ### Physical units -/

theorem runs_setBaseFrequencyHz {hz : Hz} (hword : hzToWord c hz ≤ 0xFFFFFF) (rx : Bytes) :
    Runs c (setBaseFrequencyHz hz)
      ((if hz.val < warnBelow c then [.note (.frequencyBelowTxFloor hz)] else []) ++
        [.spi (0x4D :: be3 (BitVec.ofInt 24 (hzToWord c hz))) rx]) () := by
  refine runs_getCfg.bind (Runs.require_bind hword ?_)
  have hwrite : Runs c (writeBurst (ConfigReg.address .freq2) (be3 (BitVec.ofInt 24 (hzToWord c hz)))) _ () :=
    runs_writeBurst rx rfl
  split
  · exact (runs_warn _).bind hwrite
  · exact hwrite

theorem runs_getBaseFrequencyHz (st f2 f1 f0 : Byte) :
    Runs c getBaseFrequencyHz [.spi [0xCD, 0x00, 0x00, 0x00] [st, f2, f1, f0]] (wordToHz c (unbe3 [f2, f1, f0])) :=
  (runs_getFrequencyWord st f2 f1 f0).bind (runs_getCfg.bind (.pure _))

theorem runs_getSymbolRateBaud (st b4 b3 : Byte) :
    Runs c getSymbolRateBaud [.spi [0xD0, 0x00, 0x00] [st, b4, b3]] (fpToBaud c b3 (fieldOf b4 drateE)) :=
  (runs_getSymbolRateFP st b4 b3).bind (runs_getCfg.bind (.pure _))

/-! ### Output power -/

theorem memReadBytes_take (k : Bank) (m : Memory) (a : Nat) {j n : Nat} (h : j ≤ n) :
    (memReadBytes k m a n).take j = memReadBytes k m a j := by
  rw [memReadBytes_eq_map, memReadBytes_eq_map, ← List.map_take, List.take_range, min_eq_left h]

/-- The responder after `SetOutputPower`'s table write (20_memory.md R71). -/
def Responder.wrotePatable (r : Responder) (w : Bytes) : Responder :=
  { r with patable := memWriteBytes .patable r.patable 0 w }

section

variable {w : Bytes} {b : Byte} (hstatus : c.echoPolicy = .match0F → r.status = 0x0F)

include hstatus

theorem answers_setOutputPower (h1 : 1 ≤ w.length) (h8 : w.length ≤ 8) :
    Answers c.echoPolicy r
      [.spi (0x7E :: w) (List.replicate (w.length + 1) r.status),
       .spi [0xA2, 0x00] [r.status, memRead .config r.regs 0x22], .spi [0x62, b] (List.replicate 2 r.status)]
      ((r.wrotePatable w).wrote 0x22 [b]) :=
  Answers.append (.spi hstatus (r.answer_writePatable h1 h8)) <|
    Answers.append (answers_readSingle (a := 0x22) (r := r.wrotePatable w) hstatus (by decide))
      (answers_writeConfig (a := 0x22) (r := r.wrotePatable w) hstatus (by simp) (by simp))

theorem answers_getOutputPower (hregs : Memory.wf .config r.regs = true) :
    Answers c.echoPolicy ((r.wrotePatable w).wrote 0x22 [b])
      [.spi (0xFE :: List.replicate 8 0x00) (r.status :: memReadBytes .patable (r.wrotePatable w).patable 0 8),
       .spi [0xA2, 0x00] [r.status, b]] ((r.wrotePatable w).wrote 0x22 [b]) :=
  Answers.append (.spi (r := (r.wrotePatable w).wrote 0x22 [b]) hstatus
      (((r.wrotePatable w).wrote 0x22 [b]).answer_readPatable (n := 8) (by decide) (by decide)))
    (answers_readSingle_wrote (a := 0x22) (r := r.wrotePatable w) hstatus hregs (by decide))

end

/-- The entries up to the index are what was written (41_register_fields.md R232, R233). -/
theorem outputPower_written {w : Bytes} (hpatable : Memory.wf .patable r.patable = true) (h1 : 1 ≤ w.length)
    (h8 : w.length ≤ 8) (b : Byte) :
    (memReadBytes .patable (r.wrotePatable w).patable 0 8).take
      (fieldOf (merge b paPower (w.length - 1)) paPower + 1) = w := by
  rw [fieldOf_merge (by decide) (by decide) (by simp [fieldWidth, paPower]; omega), Nat.sub_add_cancel h1,
    memReadBytes_take _ _ _ h8]
  exact memReadBytes_memWriteBytes (by simp only [bankSize]; omega) hpatable

theorem readsBack_outputPower {values : List Int} (hstatus : c.echoPolicy = .match0F → r.status = 0x0F)
    (hregs : Memory.wf .config r.regs = true) (hpatable : Memory.wf .patable r.patable = true)
    (h1 : 1 ≤ values.length) (h8 : values.length ≤ 8) (hvalues : ∀ v ∈ values, 0 ≤ v ∧ v ≤ 255) :
    ReadsBack c r (.setOutputPower values) .getOutputPower (.bytes (values.map (BitVec.ofInt 8))) := by
  have hlength : (values.map (BitVec.ofInt 8)).length = values.length := List.length_map _
  have hwritten := outputPower_written (w := values.map (BitVec.ofInt 8)) hpatable (by omega) (by omega)
    (memRead .config r.regs 0x22)
  rw [hlength] at hwritten
  exact ⟨_, _, _, _, (runs_setOutputPower h1 h8 hvalues _ _ _ _).inReady rfl (fun _ => rfl) rfl,
    (runs_getOutputPower _ _ _ _).inReady rfl (fun _ => rfl) (congrArg Value.bytes hwritten),
    answers_setOutputPower hstatus (by omega) (by omega), answers_getOutputPower hstatus hregs⟩

/-! ### Every setter with a getter -/

/-- A code of the preamble table has three bits and gives its length back (41_register_fields.md R197). -/
theorem preambleCode?_eq_some {nbytes : Int} {k : Nat} (h : preambleCode? nbytes = some k) :
    k < 8 ∧ preambleOfCode k = nbytes.toNat := by
  obtain ⟨hk, hp, -⟩ := List.findIdx?_eq_some_iff_getElem.1 h
  have hk8 : k < 8 := hk
  obtain rfl := of_decide_eq_true hp
  refine ⟨hk8, ?_⟩
  clear h hp
  interval_cases k <;> rfl

/-- Every setter with a getter is read back (41_register_fields.md R200 to R235; 42_field_conversions.md R260 to
R264). -/
theorem readBack_readsBack (hstatus : c.echoPolicy = .match0F → r.status = 0x0F)
    (hregs : Memory.wf .config r.regs = true) (hpatable : Memory.wf .patable r.patable = true)
    (h : readBack c (memRead .config r.regs 0x12) i = some (g, v)) : ReadsBack c r i g v := by
  cases i with
  | setFrequencyWord w =>
      simp only [readBack] at h
      split_ifs at h with hw
      cases h
      refine readsBack_burst (a := 0x0D) (w := be3 (BitVec.ofInt 24 w)) hstatus hregs (by simp [be3])
        (by simp [be3]) .nil (fun rx => (runs_setFrequencyWord hw rx).inReady rfl (fun _ => rfl) rfl) ?_
      exact (runs_getFrequencyWord _ _ _ _).inReady rfl (fun _ => rfl) (congrArg _ (unbe3_be3 _))
  | setSymbolRateFP m e =>
      simp only [readBack] at h
      split_ifs at h with hfp
      obtain ⟨hm, hm', he, he'⟩ := hfp
      cases h
      refine readsBack_burst (a := 0x10) (w := [_, _]) hstatus hregs (by simp) (by simp)
        (answers_readSingle (a := 0x10) hstatus (by decide))
        (fun rx => (runs_setSymbolRateFP ⟨hm, hm'⟩ ⟨he, he'⟩ _ _ rx).inReady rfl (fun _ => rfl) rfl) ?_
      exact (runs_getSymbolRateFP _ _ _).inReady rfl (fun _ => rfl)
        (congrArg _ (fieldOf_drateE_written ⟨he, he'⟩ _))
  | setFilterBandwidthFP m e =>
      simp only [readBack] at h
      split_ifs at h with hfp
      cases h
      obtain ⟨hm, hm', he, he'⟩ := hfp
      obtain ⟨hmantissa, hexponent⟩ := filterBandwidth_written ⟨hm, hm'⟩ ⟨he, he'⟩ (memRead .config r.regs 0x10)
      exact readsBack_register (a := 0x10) hstatus hregs (by decide) (if_pos ⟨hm, hm', he, he'⟩) rfl
        (congrArg₂ Value.filterBandwidthFP hmantissa hexponent)
  | setModulationFormat f =>
      cases h
      exact readsBack_field (F := modFormat) (d := fun k => .modulationFormat (modulationOfCode k)) hstatus hregs
        (by decide) (by cases f <;> decide)
        (fun st b rx => (runs_fieldSet modFormat _ st b rx (by decide)).inReady rfl (fun _ => rfl) rfl)
        (fun st b => (runs_getModulationFormat st b).inReady rfl (fun _ => rfl) rfl) (by cases f <;> rfl)
  | setSyncMode mode cs =>
      cases h
      refine readsBack_register (a := 0x12) hstatus hregs (by decide) rfl rfl ?_
      change _ = Value.syncMode _ (cs.getD ((memRead .config r.regs (BitVec.toNat (0x12 : Addr6))).getLsbD 2))
      generalize memRead .config r.regs _ = b
      revert b
      rcases cs with _ | _ | _ <;> cases mode <;> decide
  | setSyncWord w =>
      simp only [readBack] at h
      split_ifs at h with hw
      cases h
      obtain ⟨s1, s0, rfl⟩ := List.length_eq_two.1 hw
      refine readsBack_burst (a := 0x04) (w := [s1, s0]) hstatus hregs (by simp) (by simp) .nil
        (fun rx => (runs_setSyncWord hw rx).inReady rfl (fun _ => rfl) rfl) ?_
      exact (runs_getSyncWord _ _ _).inReady rfl (fun _ => rfl) rfl
  | setPreambleLength nbytes =>
      simp only [readBack] at h
      split_ifs at h with hlisted
      cases h
      rw [preambleBits_eq, Option.isSome_map] at hlisted
      obtain ⟨k, hcode⟩ := Option.isSome_iff_exists.1 hlisted
      obtain ⟨hk, hlength⟩ := preambleCode?_eq_some hcode
      exact readsBack_field (F := numPreamble) (d := fun k => .preambleLength (preambleOfCode k)) hstatus hregs
        (by decide) hk
        (fun st b rx => (runs_setPreambleLength hcode st b rx).inReady rfl (fun _ => rfl) rfl)
        (fun st b => (runs_getPreambleLength st b).inReady rfl (fun _ => rfl) rfl) (congrArg _ hlength)
  | setPacketLength n =>
      simp only [readBack] at h
      split_ifs at h with hn
      cases h
      exact readsBack_single (a := 0x06) hstatus hregs (by decide) .nil
        (fun rx => (runs_setPacketLength hn rx).inReady rfl (fun _ => rfl) rfl)
        ((runs_getPacketLength _ _).inReady rfl (fun _ => rfl) rfl)
  | setPacketLengthMode mode =>
      cases h
      exact readsBack_field (F := lengthConfig) (d := fun k => .packetLengthMode (packetLengthModeOfCode k)) hstatus
        hregs (by decide) (by cases mode <;> decide)
        (fun st b rx => (runs_fieldSet lengthConfig _ st b rx (by decide)).inReady rfl (fun _ => rfl) rfl)
        (fun st b => (runs_getPacketLengthMode st b).inReady rfl (fun _ => rfl) rfl) (by cases mode <;> rfl)
  | setTransceiveMode mode =>
      cases h
      exact readsBack_field (F := pktFormat) (d := fun k => .transceiveMode (transceiveOfCode k)) hstatus hregs
        (by decide) (by cases mode <;> decide)
        (fun st b rx => (runs_fieldSet pktFormat _ st b rx (by decide)).inReady rfl (fun _ => rfl) rfl)
        (fun st b => (runs_getTransceiveMode st b).inReady rfl (fun _ => rfl) rfl) (by cases mode <;> rfl)
  | enableChecksum | disableChecksum =>
      cases h
      exact readsBack_flag (F := crcEn) hstatus hregs (by decide) rfl rfl (fun _ => rfl) fun _ => rfl
  | enableDataWhitening | disableDataWhitening =>
      cases h
      exact readsBack_flag (F := whiteData) hstatus hregs (by decide) rfl rfl (fun _ => rfl) fun _ => rfl
  | enableManchester | disableManchester =>
      cases h
      exact readsBack_flag (F := manchesterEn) hstatus hregs (by decide) rfl rfl (fun _ => rfl) fun _ => rfl
  | setPAIndex k =>
      simp only [readBack] at h
      split_ifs at h with hk
      cases h
      exact readsBack_field (F := paPower) (d := .field) hstatus hregs (by decide)
        (by simp [fieldWidth, paPower]; omega)
        (fun st b rx => (runs_setPAIndex hk st b rx).inReady rfl (fun _ => rfl) rfl)
        (fun st b => (runs_fieldGet paPower st b (by decide)).inReady rfl (fun _ => rfl) rfl) rfl
  | setCalibrationOnWake k =>
      simp only [readBack] at h
      split_ifs at h with hk
      cases h
      exact readsBack_field (F := fsAutocal) (d := .field) hstatus hregs (by decide)
        (by simp [fieldWidth, fsAutocal]; omega)
        (fun st b rx => (runs_setCalibrationOnWake hk st b rx).inReady rfl (fun _ => rfl) rfl)
        (fun st b => (runs_fieldGet fsAutocal st b (by decide)).inReady rfl (fun _ => rfl) rfl) rfl
  | setOutputPower values =>
      simp only [readBack] at h
      split_ifs at h with hvalues
      obtain ⟨h1, h8, hrange⟩ := hvalues
      cases h
      exact readsBack_outputPower hstatus hregs hpatable h1 h8 hrange
  | setBaseFrequencyHz hz =>
      simp only [readBack] at h
      split_ifs at h with hword
      cases h
      refine readsBack_burst (a := 0x0D) (w := be3 (BitVec.ofInt 24 (hzToWord c hz))) hstatus hregs (by simp [be3])
        (by simp [be3]) (?_) (fun rx => (runs_setBaseFrequencyHz hword rx).inReady rfl (fun _ => rfl) rfl) ?_
      · split
        · exact .note _
        · exact .nil
      · exact (runs_getBaseFrequencyHz _ _ _ _).inReady rfl (fun _ => rfl)
          (congrArg (fun w => Value.hz (wordToHz c w)) (unbe3_be3 _))
  | setSymbolRateBaud baud =>
      simp only [readBack] at h
      split_ifs at h with hfp
      obtain ⟨hbaud, he, he'⟩ := hfp
      cases h
      refine readsBack_burst (a := 0x10) (w := [_, _]) hstatus hregs (by simp) (by simp)
        (answers_readSingle (a := 0x10) hstatus (by decide))
        (fun rx => (runs_setSymbolRateBaud hbaud rfl ⟨he, he'⟩ _ _ rx).inReady rfl (fun _ => rfl) rfl) ?_
      exact (runs_getSymbolRateBaud _ _ _).inReady rfl (fun _ => rfl)
        (congrArg (fun e => Value.baud (fpToBaud c _ e)) (fieldOf_drateE_written ⟨he, he'⟩ _))
  | _ => cases h

/-- Settles O57: each setter's write read back by its getter. -/
theorem setterThenGetter : Obligations.SetterThenGetter :=
  fun _ _ _ _ _ _ hready henv h hregs hpatable hstatus hexec =>
    (readBack_readsBack hstatus hregs hpatable h).exec hready henv hexec

end Sys2Proof.Machine
end

section
/-! SUPPORT. The conversions between words and physical units: the proofs of ConversionFormulas, FrequencyRoundTrips and
SymbolRateConversion (42_field_conversions.md R250 to R256). -/

namespace Sys2Proof.Machine

/-! ### The formulas -/

theorem wordToHz_val (c : Config) (w : Word24) : (wordToHz c w).val = w.toNat * c.crystalHz / 2 ^ 16 := by
  simp only [wordToHz, freqFactor, mul_div_assoc]
  norm_num

theorem hzToWord_eq (c : Config) (hz : Hz) : hzToWord c hz = roundHalfEven (hz.val / (c.crystalHz / 2 ^ 16)) := by
  simp only [hzToWord, freqFactor]
  norm_num

theorem fpToBaud_val (c : Config) (m : Byte) (e : Nat) :
    (fpToBaud c m e).val = (256 + m.toNat) * 2 ^ e * c.crystalHz / 2 ^ 28 := by
  simp only [fpToBaud, pow2_eq_zpow, zpow_natCast]
  norm_num

theorem filterBwHz_val (c : Config) (m e : Nat) :
    (filterBwHz c m e).val = c.crystalHz / (8 * (4 + m) * 2 ^ e) := by
  simp only [filterBwHz]
  norm_num

/-- Settles O49: one formula per conversion. -/
theorem conversionFormulas : Obligations.ConversionFormulas := fun c =>
  ⟨wordToHz_val c, hzToWord_eq c, fpToBaud_val c, filterBwHz_val c⟩

/-! ### Frequency round trips -/

theorem roundHalfEven_intCast (n : Int) : roundHalfEven n = n :=
  have ⟨hlow, hhigh⟩ := roundHalfEven_mem (le_refl (n : Rat)) (le_refl (n : Rat))
  le_antisymm hhigh hlow

theorem hzToWord_wordToHz (c : Config) (w : Word24) : hzToWord c (wordToHz c w) = w.toNat := by
  have hquotient : (wordToHz c w).val / freqFactor c = ((w.toNat : Int) : Rat) :=
    mul_div_cancel_right₀ _ (freqFactor_pos c).ne'
  rw [hzToWord, hquotient, roundHalfEven_intCast]

/-- Rounding is off by at most a half, and a word's step is `freqFactor` (42_field_conversions.md R256 (b)). -/
theorem abs_wordToHz_sub_le {c : Config} {hz : Hz} {w : Word24} (hword : hzToWord c hz = w.toNat) :
    |(wordToHz c w).val - hz.val| ≤ freqFactor c / 2 := by
  have hfactor := freqFactor_pos c
  have hround : |(w.toNat : Rat) - hz.val / freqFactor c| ≤ 1 / 2 := by
    have h := abs_roundHalfEven_sub_le (hz.val / freqFactor c)
    rwa [← hzToWord, hword, Int.cast_natCast] at h
  calc |(wordToHz c w).val - hz.val|
      = |((w.toNat : Rat) - hz.val / freqFactor c) * freqFactor c| := by
        rw [sub_mul, div_mul_cancel₀ _ hfactor.ne']; rfl
    _ = |(w.toNat : Rat) - hz.val / freqFactor c| * freqFactor c := by rw [abs_mul, abs_of_pos hfactor]
    _ ≤ 1 / 2 * freqFactor c := by gcongr
    _ = freqFactor c / 2 := by ring

/-- Settles O50: a word is a whole number of steps, and rounding to one is off by at most a half. -/
theorem frequencyRoundTrips : Obligations.FrequencyRoundTrips := fun c =>
  ⟨hzToWord_wordToHz c, fun _ _ => abs_wordToHz_sub_le⟩

/-! ### Symbol rates -/

/-- `BaudToFp` before and after its carry (42_field_conversions.md R253). -/
theorem baudToFp_eq {c : Config} {baud : Rat} {m e : Int} (he : e = flog2 (baud / c.crystalHz) + 20)
    (hm : m = roundHalfEven (baud * 2 ^ 28 / c.crystalHz / 2 ^ e - 256)) :
    baudToFp c baud = if m = 256 then (0, e + 1) else (m, e) := by
  subst hm he
  simp only [baudToFp, pow2_eq_zpow]
  norm_num

/-- Only one power of two brackets a positive number (00_scope.md R11). -/
theorem flog2_eq_of_bounds {q : Rat} {e : Int} (hlow : (2 : Rat) ^ e ≤ q) (hhigh : q < 2 ^ (e + 1)) : flog2 q = e := by
  have hq : 0 < q := lt_of_lt_of_le (by positivity) hlow
  have h1 : e < flog2 q + 1 := (zpow_lt_zpow_iff_right₀ one_lt_two).1 (hlow.trans_lt (lt_zpow_flog2_add_one hq))
  have h2 : flog2 q < e + 1 := (zpow_lt_zpow_iff_right₀ one_lt_two).1 ((zpow_flog2_le hq).trans_lt hhigh)
  omega

/-- The rate of R252 for any integer exponent: doubling and halving leave the exponents a register holds. -/
def symbolRate (c : Config) (m : Byte) (e : Int) : Rat := (256 + m.toNat) * 2 ^ e * c.crystalHz / 2 ^ 28

theorem fpToBaud_val_eq_symbolRate (c : Config) (m : Byte) (e : Nat) : (fpToBaud c m e).val = symbolRate c m e := by
  rw [fpToBaud_val, symbolRate, zpow_natCast]

theorem two_mul_symbolRate (c : Config) (m : Byte) (e : Int) : 2 * symbolRate c m e = symbolRate c m (e + 1) := by
  rw [symbolRate, symbolRate, zpow_add_one₀ two_ne_zero]
  ring

theorem symbolRate_div_two (c : Config) (m : Byte) (e : Int) : symbolRate c m e / 2 = symbolRate c m (e - 1) := by
  rw [div_eq_iff two_ne_zero, mul_comm, two_mul_symbolRate, sub_add_cancel]

theorem symbolRate_div_crystal (c : Config) (m : Byte) (e : Int) :
    symbolRate c m e / c.crystalHz = (256 + m.toNat) * 2 ^ e / 2 ^ 28 := by
  have hcrystal : (c.crystalHz : Rat) ≠ 0 := by exact_mod_cast c.crystalPos.ne'
  rw [symbolRate, div_right_comm, mul_div_cancel_right₀ _ hcrystal]

/-- A scaled mantissa is from 256 to 511, that is from 2^8 to below 2^9. -/
theorem flog2_symbolRate (c : Config) (m : Byte) (e : Int) : flog2 (symbolRate c m e / c.crystalHz) = e - 20 := by
  have hpow : (0 : Rat) < 2 ^ e := by positivity
  have hbyte : (m.toNat : Rat) < 256 := by exact_mod_cast m.isLt
  rw [symbolRate_div_crystal]
  apply flog2_eq_of_bounds
  · calc (2 : Rat) ^ (e - 20) = 256 * 2 ^ e / 2 ^ 28 := by rw [zpow_sub₀ two_ne_zero]; ring
      _ ≤ (256 + m.toNat) * 2 ^ e / 2 ^ 28 := by gcongr; linarith [Nat.cast_nonneg (α := Rat) m.toNat]
  · calc (256 + m.toNat) * 2 ^ e / 2 ^ 28 < (512 * 2 ^ e / 2 ^ 28 : Rat) := by gcongr; linarith
      _ = 2 ^ (e - 20 + 1) := by rw [zpow_add_one₀ two_ne_zero, zpow_sub₀ two_ne_zero]; ring

/-- The mantissa of such a rate is whole and below 256, so nothing is rounded and nothing carried (R256 (c) to (e)). -/
theorem baudToFp_symbolRate (c : Config) (m : Byte) (e : Int) :
    baudToFp c (symbolRate c m e) = ((m.toNat : Int), e) := by
  have hexponent : e = flog2 (symbolRate c m e / c.crystalHz) + 20 := by rw [flog2_symbolRate, sub_add_cancel]
  have hmantissa : symbolRate c m e * 2 ^ 28 / c.crystalHz / 2 ^ e - 256 = ((m.toNat : Int) : Rat) := by
    have hpow : (2 : Rat) ^ e ≠ 0 := by positivity
    rw [mul_div_right_comm, symbolRate_div_crystal]
    field_simp
    push_cast
    ring
  have hbyte := m.isLt
  rw [baudToFp_eq hexponent (by rw [hmantissa, roundHalfEven_intCast]), if_neg (by omega)]

/-- Settles O51: the carry, the bounds of the rounded mantissa, and the exact rates with their neighbours. -/
theorem symbolRateConversion : Obligations.SymbolRateConversion := by
  intro c
  refine ⟨fun _ _ _ _ => baudToFp_eq, fun _ => baudToFp_mantissa, fun m e => ?_, fun m e => ?_, fun m e => ?_⟩ <;>
    rw [fpToBaud_val_eq_symbolRate]
  · exact baudToFp_symbolRate c m e
  · rw [two_mul_symbolRate, baudToFp_symbolRate]
  · rw [symbolRate_div_two, baudToFp_symbolRate]

end Sys2Proof.Machine
end

section
/-! SUPPORT. The accessors in physical units complete: the proofs of PhysicalGettersComplete and
SetBaseFrequencyCompletes (42_field_conversions.md R260 to R265). -/

namespace Sys2Proof.Machine

variable {c : Config}

theorem runs_getFilterBandwidthHz (st b : Byte) :
    Runs c getFilterBandwidthHz [.spi [0x90, 0x00] [st, b]] (filterBwHz c (fieldOf b chanbwM) (fieldOf b chanbwE)) :=
  (runs_getFilterBandwidthFP st b).bind (runs_getCfg.bind (.pure _))

/-- Three bytes fit in a word (20_memory.md R59). -/
theorem unbe3_toNat (f2 f1 f0 : Byte) :
    (unbe3 [f2, f1, f0]).toNat = f2.toNat * 65536 + f1.toNat * 256 + f0.toNat := by
  have h2 := f2.isLt
  have h1 := f1.isLt
  have h0 := f0.isLt
  rw [unbe3_eq_ofNat, BitVec.toNat_ofNat]
  omega

theorem fieldOf_drateE (b : Byte) : fieldOf b drateE = b.toNat % 16 := by
  revert b; decide

theorem fieldOf_chanbwM (b : Byte) : fieldOf b chanbwM = b.toNat / 16 % 4 := by
  revert b; decide

theorem fieldOf_chanbwE (b : Byte) : fieldOf b chanbwE = b.toNat / 64 := by
  revert b; decide

/-- Settles O33: each getter's one read, and the formula at the fields of its bytes. -/
theorem physicalGettersComplete : Obligations.PhysicalGettersComplete := by
  refine ⟨fun s st f2 f1 f0 q hready hq => ?_, fun s st b4 b3 q hready hq => ?_, fun s st b q hready hq => ?_⟩ <;>
    refine RunsInReady.completes ?_ hready
  · have hval : wordToHz s.cfg (unbe3 [f2, f1, f0]) = q := hz_ext (by rw [wordToHz_val, unbe3_toNat, hq])
    exact (runs_getBaseFrequencyHz st f2 f1 f0).inReady rfl (fun _ => rfl) (congrArg _ hval)
  · have hval : fpToBaud s.cfg b3 (fieldOf b4 drateE) = q :=
      baud_ext (by rw [fpToBaud_val, fieldOf_drateE, hq, Nat.cast_add, Nat.cast_ofNat])
    exact (runs_getSymbolRateBaud st b4 b3).inReady rfl (fun _ => rfl) (congrArg _ hval)
  · have hval : filterBwHz s.cfg (fieldOf b chanbwM) (fieldOf b chanbwE) = q :=
      hz_ext (by rw [filterBwHz_val, fieldOf_chanbwM, fieldOf_chanbwE, hq])
    exact (runs_getFilterBandwidthHz st b).inReady rfl (fun _ => rfl) (congrArg _ hval)

/-- The bytes of a number, most significant first (00_scope.md R10). -/
theorem be3_ofInt_natCast (n : Nat) : be3 (BitVec.ofInt 24 n) =
    [BitVec.ofNat 8 (n / 65536), BitVec.ofNat 8 (n / 256), BitVec.ofNat 8 n] := by
  simp only [be3_ofInt, ← BitVec.ofInt_natCast, Int.natCast_ediv, Nat.cast_ofNat]

/-- Settles O37: the warning where the comparison holds, then the write of the rounded word. -/
theorem setBaseFrequencyCompletes : Obligations.SetBaseFrequencyCompletes := by
  intro hz w s rx hready hword
  have hfits : hzToWord s.cfg hz ≤ 0xFFFFFF := by
    have := w.isLt
    omega
  refine RunsInReady.completes ?_ hready
  rw [← be3_ofInt_natCast, ← hword]
  exact (runs_setBaseFrequencyHz hfits rx).inReady rfl (fun _ => rfl) rfl

end Sys2Proof.Machine
end

section
/-! SUPPORT. `Open` and `Close`: the proofs of OpenCompletes, OpenErrorsLeaveClosed and CloseCompletes (43_lifecycle.md
R280 to R286; 44_packet_engine.md R331; 60_exceptions.md R354, R355, R360). -/

namespace Sys2Proof.Machine

variable {c : Config}

/-- An operation whose body succeeds and then sets the lifecycle state completes in that state (10_state.md R25). -/
theorem Runs.completes_setLife {i : Instr} {s : State} {x : Op Unit} {ix : List Interaction} {l : Life}
    (hexec : exec i s = runOp i (do x; setLife l; Pure.pure .unit) s) (haccepts : accepts s.life i = true)
    (hx : Runs s.cfg x ix ()) : Completes i s ix .unit l := by
  intro env tr h
  have hrun := hx (s.started i) rfl env tr h
  rw [hexec, runOp, if_pos haccepts]
  simp only [Bind.bind, EStateM.bind, hrun]
  rfl

/-! ### The parts of the two operations -/

theorem runs_strobe (r : StrobeCmd) (st : Byte) : Runs c (strobe r) [.spi (frameStrobe r.address) [st]] () :=
  runs_strobeAt st (strobe_address_range r)

theorem runs_readPartnum (st p : Byte) : Runs c (readStatus .partnum) [.spi [0xF0, 0x00] [st, p]] p :=
  runs_readStatusAt st p (by decide)

theorem runs_readVersion (st v : Byte) : Runs c (readStatus .version) [.spi [0xF1, 0x00] [st, v]] v :=
  runs_readStatusAt st v (by decide)

/-- VerifyIdentity accepts the supported part number and a version of the whitelist (43_lifecycle.md R283). -/
theorem runs_verifyIdentity {p v : Byte} (hp : p = c.supportedPartnum) (hv : v ∈ c.versionWhitelist) (s1 s2 : Byte) :
    Runs c verifyIdentity [.spi [0xF0, 0x00] [s1, p], .spi [0xF1, 0x00] [s2, v]] () :=
  runs_getCfg.bind ((runs_readPartnum s1 p).bind (.require_bind hp ((runs_readVersion s2 v).bind (runs_require hv _))))

/-- VerifyIdentity fails on another part number before it reads the version (43_lifecycle.md R283). -/
theorem raises_verifyIdentity_partnum {p : Byte} (hp : p ≠ c.supportedPartnum) (s1 : Byte) :
    Raises c verifyIdentity [.spi [0xF0, 0x00] [s1, p]]
      { kind := .partnum, reg := some 0x30, expected := some (.set [c.supportedPartnum]),
        actual := some (.byte p) } :=
  .bind_right runs_getCfg (.bind_right (runs_readPartnum s1 p) (.require_bind hp))

/-- VerifyIdentity fails on a version outside the whitelist (43_lifecycle.md R283). -/
theorem raises_verifyIdentity_version {p v : Byte} (hp : p = c.supportedPartnum) (hv : v ∉ c.versionWhitelist)
    (s1 s2 : Byte) :
    Raises c verifyIdentity [.spi [0xF0, 0x00] [s1, p], .spi [0xF1, 0x00] [s2, v]]
      { kind := .version, reg := some 0x31, expected := some (.set c.versionWhitelist),
        actual := some (.byte v) } :=
  .bind_right runs_getCfg (.bind_right (runs_readPartnum s1 p)
    (.bind_right (runs_require hp _) (.bind_right (runs_readVersion s2 v) (raises_require hv _))))

/-- Clearing WHITE_DATA clears bit 6 of PKTCTRL0 (41_register_fields.md R183, R223). -/
theorem merge_whiteData_zero (b : Byte) : merge b whiteData 0 = b &&& 0xBF := BitVec.or_zero

/-- The code of FIFO mode clears bits 5:4 of PKTCTRL0 (41_register_fields.md R183, R225). -/
theorem merge_pktFormat_fifo (b : Byte) : merge b pktFormat (transceiveCode .fifo) = b &&& 0xCF := BitVec.or_zero

theorem runs_disableDataWhitening (st b : Byte) (rx : Bytes) :
    Runs c disableDataWhitening [.spi [0x88, 0x00] [st, b], .spi [0x48, b &&& 0xBF] rx] () := by
  rw [← merge_whiteData_zero]
  exact runs_fieldSet whiteData 0 st b rx (by decide)

theorem runs_setFifoMode (st b : Byte) (rx : Bytes) :
    Runs c (setTransceiveMode .fifo) [.spi [0x88, 0x00] [st, b], .spi [0x48, b &&& 0xCF] rx] () := by
  rw [← merge_pktFormat_fifo]
  exact runs_fieldSet pktFormat (transceiveCode .fifo) st b rx (by decide)

/-- ConfigureDefaults is its four read-modify-writes (43_lifecycle.md R284). -/
theorem runs_configureDefaults (t0 b0 t1 b1 t2 b2 t3 b3 : Byte) (r0 r1 r2 r3 : Bytes) :
    Runs c configureDefaults (openDefaults t0 b0 t1 b1 t2 b2 t3 b3 r0 r1 r2 r3) () :=
  (runs_fieldSet modFormat (modulationCode .askOok) t0 b0 r0 (by decide)).bind
    ((runs_setPAIndex (by decide) t1 b1 r1).bind
      ((runs_disableDataWhitening t2 b2 r2).bind (runs_setCalibrationOnWake (by decide) t3 b3 r3)))

theorem runs_requireIdle {m : Byte} (hidle : m.toNat % 32 = 1) (k : ErrorKind) (st : Byte) :
    Runs c (requireIdle k) [.spi [0xF5, 0x00] [st, m]] () :=
  (runs_readMarcstate st m).bind (runs_require (decide_eq_true hidle) _)

theorem raises_requireIdle {m : Byte} (hbusy : m.toNat % 32 ≠ 1) (k : ErrorKind) (st : Byte) :
    Raises c (requireIdle k) [.spi [0xF5, 0x00] [st, m]]
      { kind := k, reg := some 0x35, actual := some (.byte m) } :=
  .bind_right (runs_readMarcstate st m) (raises_require (fun h => hbusy (of_decide_eq_true h)) _)

/-- The end sequence restores FIFO mode and keeps the other bits of PKTCTRL0 (44_packet_engine.md R331). -/
theorem runs_asyncEndSequence (st s1 p : Byte) (rx : Bytes) :
    Runs c asyncEndSequence [.spi [0x36] [st], .spi [0x88, 0x00] [s1, p], .spi [0x48, p &&& 0xCF] rx] () :=
  (runs_strobe .sidle st).bind (runs_setFifoMode s1 p rx)

/-! ### Open -/

/-- The body of `Open` without its lifecycle state. -/
def openCore : Op Unit := do
  strobe .sres
  verifyIdentity
  configureDefaults
  requireIdle .notIdleAfterConfig

theorem openBlock_eq : openBlock = (do openCore; setLife .ready; pure .unit) := by
  simp only [openBlock, openCore, bind_assoc]

theorem exec_openOp (s : State) :
    exec .openOp s = runOp .openOp (do openCore; setLife .ready; pure .unit) s := by
  rw [← openBlock_eq]
  rfl

/-- An error of `Open` leaves CLOSED (60_exceptions.md R360). -/
theorem Raises.fails_open {s : State} {ix : List Interaction} {e : ErrorInfo} (hclosed : s.life = .closed)
    (hx : Raises s.cfg openCore ix e) : Fails .openOp s ix e .closed :=
  Raises.fails (exec_openOp s) (hclosed ▸ rfl) hx.bind_left

/-- Settles O39: the reset strobe, the identity, the defaults and the check for IDLE, one after the other. -/
theorem openCompletes : Obligations.OpenCompletes := by
  intro s s0 s1 p s2 v t0 b0 t1 b1 t2 b2 t3 b3 s3 m r0 r1 r2 r3 hclosed hp hv hidle
  refine Runs.completes_setLife (exec_openOp s) (hclosed ▸ rfl) ?_
  exact (runs_strobe .sres s0).bind ((runs_verifyIdentity hp hv s1 s2).bind
    ((runs_configureDefaults t0 b0 t1 b1 t2 b2 t3 b3 r0 r1 r2 r3).bind (runs_requireIdle hidle _ s3)))

/-- Settles O40: the first part of `Open` that fails is the identity's first or second check, or the check for IDLE. -/
theorem openErrorsLeaveClosed : Obligations.OpenErrorsLeaveClosed := by
  refine ⟨fun s s0 s1 p hclosed hp => ?_, fun s s0 s1 p s2 v hclosed hp hv => ?_,
    fun s s0 s1 p s2 v t0 b0 t1 b1 t2 b2 t3 b3 s3 m r0 r1 r2 r3 hclosed hp hv hbusy => ?_⟩ <;>
    refine Raises.fails_open hclosed (.bind_right (ix := [_]) (runs_strobe .sres s0) ?_)
  · exact (raises_verifyIdentity_partnum hp s1).bind_left
  · exact (raises_verifyIdentity_version hp hv s1 s2).bind_left
  · exact .bind_right (runs_verifyIdentity hp hv s1 s2)
      (.bind_right (runs_configureDefaults t0 b0 t1 b1 t2 b2 t3 b3 r0 r1 r2 r3) (raises_requireIdle hbusy _ s3))

/-! ### Close -/

/-- From ASYNC_TX `Close` runs the end sequence first (43_lifecycle.md R286). -/
theorem exec_closeOp_of_asyncTx {s : State} (h : s.life = .asyncTx) :
    exec .closeOp s = runOp .closeOp (do asyncEndSequence; setLife .closed; pure .unit) s := by
  rw [exec_closeOp, runOp, if_pos (h ▸ rfl)]
  simp only [closeBlock, Bind.bind, EStateM.bind, getLife, State.started_life, h]

/-- Settles O41: outside ASYNC_TX only the lifecycle state is set; from ASYNC_TX after the end sequence. -/
theorem closeCompletes : Obligations.CloseCompletes := by
  refine ⟨fun s hlife => ?_, fun s st s1 p rx hlife => ?_⟩
  · rintro env tr ⟨⟩
    rw [exec_closeOp, closeBlock_of_ne_asyncTx (s := s.started .closeOp) hlife]
    rfl
  · exact (runs_asyncEndSequence st s1 p rx).completes_setLife (exec_closeOp_of_asyncTx hlife) (hlife ▸ rfl)

end Sys2Proof.Machine
end

section
/-! SUPPORT. The packet engine: the proofs of TransmitCompletes, TransmitFails, ReceiveOutcomes, AsyncTxCompletes and
PacketParsing (44_packet_engine.md R311, R312, R320 to R323, R330, R331). -/

namespace Sys2Proof.Machine

variable {c : Config} {s : State} {payload frame : Bytes} {p max m : Byte} {e : ErrorInfo} {ix : List Interaction}

/-! ### The frame of a payload -/

/-- What `Transmit` sends to the TX FIFO, or the error it raises, for the bytes read from PKTCTRL0 and PKTLEN
(44_packet_engine.md R311, R312). -/
def frameFor (p max : Byte) (payload : Bytes) : Except ErrorInfo Bytes :=
  txFrame (packetLengthModeOfCode (fieldOf p lengthConfig)) max payload

/-- LENGTH_CONFIG is bits 1:0 of PKTCTRL0 (41_register_fields.md R183). -/
theorem fieldOf_lengthConfig (p : Byte) : fieldOf p lengthConfig = p.toNat % 4 := rfl

theorem frameFor_variable (hmode : p.toNat % 4 = 1) (hlen : payload.length ≤ max.toNat) :
    frameFor p max payload = .ok (BitVec.ofNat 8 payload.length :: payload) := by
  rw [frameFor, fieldOf_lengthConfig, hmode]
  exact if_pos hlen

theorem frameFor_fixed (hmode : p.toNat % 4 = 0) (hlen : payload.length = max.toNat) :
    frameFor p max payload = .ok payload := by
  rw [frameFor, fieldOf_lengthConfig, hmode]
  exact if_pos hlen

theorem frameFor_tooLong (hmode : p.toNat % 4 = 1) (hlen : max.toNat < payload.length) :
    frameFor p max payload = .error (payloadError .payloadTooLong payload.length max) := by
  rw [frameFor, fieldOf_lengthConfig, hmode]
  exact if_neg hlen.not_ge

theorem frameFor_mismatch (hmode : p.toNat % 4 = 0) (hlen : payload.length ≠ max.toNat) :
    frameFor p max payload = .error (payloadError .payloadLengthMismatch payload.length max) := by
  rw [frameFor, fieldOf_lengthConfig, hmode]
  exact if_neg hlen

theorem frameFor_unsupported (hmode : 2 ≤ p.toNat % 4) :
    frameFor p max payload =
      .error (configError .unsupportedPacketLengthMode (ConfigReg.address .pktctrl0) (p.toNat % 4 : Nat)) := by
  rw [frameFor, fieldOf_lengthConfig, packetLengthModeOfCode_unnamed hmode]
  rfl

/-- A frame is never empty: it holds the payload. -/
theorem one_le_length_of_frameFor (hne : payload ≠ []) (hframe : frameFor p max payload = .ok frame) :
    1 ≤ frame.length := by
  have hpos := List.length_pos_iff.2 hne
  unfold frameFor txFrame at hframe
  split at hframe
  · split_ifs at hframe
    cases hframe
    exact Nat.le_add_left 1 _
  · split_ifs at hframe
    cases hframe
    exact hpos
  · cases hframe

/-! ### Transmit -/

theorem runs_transmit (hne : payload ≠ []) (hframe : frameFor p max payload = .ok frame) (hidle : m.toNat % 32 = 1)
    (s0 s1 s2 s3 s4 : Byte) (rx : Bytes) :
    Runs c (transmit payload)
      [.spi [0x88, 0x00] [s0, p], .spi [0x86, 0x00] [s1, max], .spi [0xF5, 0x00] [s2, m], .spi [0x3B] [s3],
       .spi (0x7F :: frame) rx, .spi [0x35] [s4]] () := by
  have hlegal := legalForm_fifo (.inr rfl) (one_le_length_of_frameFor hne hframe)
  have hcheck : Runs c (orRaise (frameFor p max payload)) [] frame := hframe ▸ .pure frame
  exact .require_bind (mt List.length_eq_zero_iff.1 hne) ((runs_getPacketLengthMode s0 p).bind
    ((runs_getPacketLength s1 max).bind (hcheck.bind ((runs_requireIdle hidle _ s2).bind
      ((runs_strobe .sftx s3).bind ((runs_writeBurst rx hlegal).bind (runs_strobe .stx s4)))))))

/-- The payload's length or the mode fails `Transmit` after two reads (44_packet_engine.md R311). -/
theorem raises_transmit_frame (hne : payload ≠ []) (hframe : frameFor p max payload = .error e) (s0 s1 : Byte) :
    Raises c (transmit payload) [.spi [0x88, 0x00] [s0, p], .spi [0x86, 0x00] [s1, max]] e := by
  have hcheck : Raises c (orRaise (frameFor p max payload)) [] e := hframe ▸ .raise e
  exact .bind_right (runs_require (mt List.length_eq_zero_iff.1 hne) _)
    (.bind_right (runs_getPacketLengthMode s0 p) (.bind_right (runs_getPacketLength s1 max) hcheck.bind_left))

/-- A chip that is not idle fails `Transmit` after three reads (44_packet_engine.md R311). -/
theorem raises_transmit_busy (hne : payload ≠ []) (hframe : frameFor p max payload = .ok frame)
    (hbusy : m.toNat % 32 ≠ 1) (s0 s1 s2 : Byte) :
    Raises c (transmit payload)
      [.spi [0x88, 0x00] [s0, p], .spi [0x86, 0x00] [s1, max], .spi [0xF5, 0x00] [s2, m]]
      { kind := .notIdleTx, reg := some 0x35, actual := some (.byte m) } := by
  have hcheck : Runs c (orRaise (frameFor p max payload)) [] frame := hframe ▸ .pure frame
  exact .bind_right (runs_require (mt List.length_eq_zero_iff.1 hne) _)
    (.bind_right (runs_getPacketLengthMode s0 p) (.bind_right (runs_getPacketLength s1 max)
      (.bind_right hcheck (raises_requireIdle hbusy _ s2).bind_left)))

/-- An error of `Transmit` that is no ProtocolError leaves READY (60_exceptions.md R360). -/
theorem Raises.fails_transmit (hready : s.life = .ready) (hclass : kindClass e.kind ≠ .protocolError)
    (hx : Raises s.cfg (transmit payload) ix e) : Fails (.transmit payload) s ix e .ready := by
  have hlife : lifeAfterError s.life ⟨.transmit payload, e⟩ = .ready := by
    simp [lifeAfterError, hclass, hready]
  rw [← hlife]
  exact Raises.fails rfl (hready ▸ rfl) hx.bind_left

/-- Settles O42: the frame of either mode passes the checks, and the transfers follow one another. -/
theorem transmitCompletes : Obligations.TransmitCompletes := by
  intro payload frame s s0 p s1 max s2 m s3 s4 rx hready hne hmode hidle
  have hframe : frameFor p max payload = .ok frame := by
    rcases hmode with ⟨hvariable, hlen, rfl⟩ | ⟨hfixed, hlen, rfl⟩
    · exact frameFor_variable hvariable hlen
    · exact frameFor_fixed hfixed hlen
  exact ((runs_transmit hne hframe hidle s0 s1 s2 s3 s4 rx).inReady (g := fun _ => .unit) rfl (fun _ => rfl)
    rfl).completes hready

/-- Settles O43: the three errors of the frame, after two reads, and the chip's state after the third. -/
theorem transmitFails : Obligations.TransmitFails := by
  refine ⟨fun payload s s0 p s1 max hready hne hmode hlen => ?_,
    fun payload s s0 p s1 max hready hne hmode hlen => ?_, fun payload s s0 p s1 max k hready hne hk hmode => ?_,
    fun payload s s0 p s1 max s2 m hready hne hmode hbusy => ?_⟩
  · exact (raises_transmit_frame hne (frameFor_tooLong hmode hlen) s0 s1).fails_transmit hready nofun
  · exact (raises_transmit_frame hne (frameFor_mismatch hmode hlen) s0 s1).fails_transmit hready nofun
  · subst hk
    exact (raises_transmit_frame hne (frameFor_unsupported hmode) s0 s1).fails_transmit hready nofun
  · obtain ⟨frame, hframe⟩ : ∃ frame, frameFor p max payload = .ok frame := by
      rcases hmode with ⟨hvariable, hlen⟩ | ⟨hfixed, hlen⟩
      · exact ⟨_, frameFor_variable hvariable hlen⟩
      · exact ⟨_, frameFor_fixed hfixed hlen⟩
    exact (raises_transmit_busy hne hframe hbusy s0 s1 s2).fails_transmit hready nofun

/-! ### Receive -/

/-- The payload of a received packet is followed by its RSSI and LQI bytes (44_packet_engine.md R322). -/
theorem parsePacket_append (payload : Bytes) (rssi lqi : Byte) :
    parsePacket (payload ++ [rssi, lqi]) = ⟨payload, rssi, lqi.getLsbD 7, lqi.setWidth 7⟩ := by
  simp [parsePacket, byteAt]

theorem runs_rxByteCount (st b : Byte) : Runs c rxByteCount [.spi [0xFB, 0x00] [st, b]] (rxCount b) :=
  (runs_readStatusAt st b (by decide)).bind (.pure _)

theorem runs_drainPacket_empty {b : Byte} (hcount : b.toNat % 128 = 0) (st : Byte) :
    Runs c drainPacket [.spi [0xFB, 0x00] [st, b]] .noPacket := by
  refine (runs_rxByteCount st b).bind ?_
  rw [rxCount, if_pos hcount]
  exact .pure _

theorem runs_drainPacket_packet {b : Byte} (hcount : b.toNat % 128 = payload.length + 2) (s1 s2 rssi lqi : Byte) :
    Runs c drainPacket
      [.spi [0xFB, 0x00] [s1, b],
       .spi (0xFF :: List.replicate (payload.length + 2) 0x00) (s2 :: (payload ++ [rssi, lqi]))]
      (.packet ⟨payload, rssi, lqi.getLsbD 7, lqi.setWidth 7⟩) := by
  refine (runs_rxByteCount s1 b).bind ?_
  rw [rxCount, hcount, if_neg (by omega), if_neg (by omega), ← parsePacket_append]
  exact (runs_readBurst s2 (payload ++ [rssi, lqi]) (legalForm_fifo (.inl rfl) (by omega))).bind (.pure _)

/-- A packet has two status bytes: a count of one is an error (44_packet_engine.md R324; 60_exceptions.md R353). -/
theorem raises_drainPacket_short {b : Byte} (hcount : b.toNat % 128 = 1) (st : Byte) :
    Raises c drainPacket [.spi [0xFB, 0x00] [st, b]]
      { kind := .shortRx, reg := some 0x3B, actual := some (.int 1) } := by
  refine .bind_right (runs_rxByteCount st b) ?_
  rw [rxCount, hcount]
  exact .raise _

theorem runs_receive_timeout (t : Timeout) (s0 s1 : Byte) :
    Runs c (receive t) [.spi [0x34] [s0], .gpio t false, .spi [0x36] [s1]] .noPacket :=
  (runs_strobe .srx s0).bind ((runs_gpioWaitRising t false).bind ((runs_strobe .sidle s1).bind (.pure _)))

theorem Runs.receive_edge {v : Value} (hx : Runs c drainPacket ix v) (t : Timeout) (s0 : Byte) :
    Runs c (receive t) (.spi [0x34] [s0] :: .gpio t true :: ix) v :=
  (runs_strobe .srx s0).bind ((runs_gpioWaitRising t true).bind hx)

theorem Raises.receive_edge (hx : Raises c drainPacket ix e) (t : Timeout) (s0 : Byte) :
    Raises c (receive t) (.spi [0x34] [s0] :: .gpio t true :: ix) e :=
  .bind_right (runs_strobe .srx s0) (.bind_right (runs_gpioWaitRising t true) hx)

theorem Runs.completes_receive {t : Timeout} {v : Value} (hready : s.life = .ready) (hx : Runs s.cfg (receive t) ix v) :
    Completes (.receive t) s ix v .ready :=
  RunsInReady.completes ⟨rfl, _, fun _ => rfl, hx⟩ hready

/-- Settles O44: the timeout, and after an edge the three branches on the count. -/
theorem receiveOutcomes : Obligations.ReceiveOutcomes := by
  refine ⟨fun t s s0 s1 hready => ?_, fun t s s0 s1 b hready hcount => ?_,
    fun t s s0 s1 b s2 rssi lqi payload hready hcount => ?_, fun t s s0 s1 b hready hcount => ?_⟩
  · exact (runs_receive_timeout t s0 s1).completes_receive hready
  · exact ((runs_drainPacket_empty hcount s1).receive_edge t s0).completes_receive hready
  · exact ((runs_drainPacket_packet hcount s1 s2 rssi lqi).receive_edge t s0).completes_receive hready
  · exact ((raises_drainPacket_short hcount s1).receive_edge t s0).fails rfl (hready ▸ rfl)

theorem rssiDbm_of_le {i : Byte} (hi : i.toNat ≤ 127) : rssiDbm i = (i.toNat : Rat) / 2 - 74 := if_pos hi

theorem rssiDbm_of_lt {i : Byte} (hi : 127 < i.toNat) : rssiDbm i = ((i.toNat : Rat) - 256) / 2 - 74 :=
  if_neg hi.not_ge

/-- Settles O52: the last two bytes of a packet and the rest; the two halves of the RSSI scale. -/
theorem packetParsing : Obligations.PacketParsing := by
  refine ⟨parsePacket_append, fun i => ?_, ?_, ?_, ?_⟩
  · split_ifs with hi
    · exact rssiDbm_of_le hi
    · exact rssiDbm_of_lt (not_le.1 hi)
  · exact (rssiDbm_of_lt (by decide)).trans (by simp only [BitVec.reduceToNat]; norm_num)
  · exact (rssiDbm_of_lt (by decide)).trans (by simp only [BitVec.reduceToNat]; norm_num)
  · exact (rssiDbm_of_le (by decide)).trans (by norm_num)

/-! ### Asynchronous transmission -/

/-- The code of asynchronous mode sets bits 5:4 of PKTCTRL0 (41_register_fields.md R183, R225). -/
theorem merge_pktFormat_asynchronousSerial (b : Byte) :
    merge b pktFormat (transceiveCode .asynchronousSerial) = (b &&& 0xCF) ||| 0x30 := rfl

theorem runs_setAsynchronousMode (st b : Byte) (rx : Bytes) :
    Runs c (setTransceiveMode .asynchronousSerial)
      [.spi [0x88, 0x00] [st, b], .spi [0x48, (b &&& 0xCF) ||| 0x30] rx] () := by
  rw [← merge_pktFormat_asynchronousSerial]
  exact runs_fieldSet pktFormat (transceiveCode .asynchronousSerial) st b rx (by decide)

/-- `AsyncTxBegin` makes its transfers before it sets the lifecycle state (44_packet_engine.md R330). -/
theorem exec_asyncTxBegin (s : State) :
    exec .asyncTxBegin s =
      runOp .asyncTxBegin (do
        (do setTransceiveMode .asynchronousSerial; strobe .stx)
        setLife .asyncTx
        pure .unit) s := by
  rw [bind_assoc]
  rfl

/-- Settles O45: the mode's write and the strobe, or the end sequence, and then the lifecycle state. -/
theorem asyncTxCompletes : Obligations.AsyncTxCompletes := by
  refine ⟨fun s s0 p s1 rx hready => ?_, fun s s0 s1 p rx hasync => ?_⟩
  · exact ((runs_setAsynchronousMode s0 p rx).bind (runs_strobe .stx s1)).completes_setLife (exec_asyncTxBegin s)
      (hready ▸ rfl)
  · exact (runs_asyncEndSequence s0 s1 p rx).completes_setLife rfl (hasync ▸ rfl)

end Sys2Proof.Machine
end

section
/-! SUPPORT. The classes of the errors and what taking one does: the proofs of ErrorClassesAndCodes and TakingAnError
(60_exceptions.md R351 to R355, R360). -/

namespace Sys2Proof.Machine

variable {p : EchoPolicy} {i : Instr} {s t : State} {e : ErrorRecord} {ending : List Event}

/-- Settles O19: the class of each kind, and the codes of the five classes. -/
theorem errorClassesAndCodes : Obligations.ErrorClassesAndCodes :=
  ⟨fun k => by cases k <;> rfl, rfl, rfl, rfl, rfl, rfl⟩

/-- An end that raises an error raises that one alone, as the operation's own, and refuses nothing. -/
theorem Ending.of_error (h : Ending p i ending) (he : Event.errorRaised e ∈ ending) :
    e.op = i ∧ ∃ pre, ending = pre ++ [.errorRaised e, .opEnd (.err e)] ∧ errorsIn pre = [] ∧
      pre.any isRefusal = false := by
  cases h with
  | opEnd => simp at he
  | check =>
      obtain rfl : e = ⟨i, _⟩ := by simpa [errorEvents] using he
      exact ⟨rfl, [], rfl, rfl, rfl⟩
  | length =>
      obtain rfl : e = ⟨i, _⟩ := by simpa [errorEvents] using he
      exact ⟨rfl, [_], rfl, rfl, rfl⟩
  | echo =>
      obtain rfl : e = ⟨i, _⟩ := by simpa [errorEvents] using he
      exact ⟨rfl, [_, _], rfl, rfl, rfl⟩

/-- An operation that logs an error ends with it; before it, it has raised none and refused nothing. -/
theorem exec_raises (h : exec i s = .next t) (he : Event.errorRaised e ∈ newEvents s t) :
    e.op = i ∧ ∃ ev, t.trace = s.trace ++ ev ++ [.errorRaised e, .opEnd (.err e)] ∧ errorsIn ev = [] ∧
      ev.any isRefusal = false := by
  obtain ⟨ix, ending, htrace, -, -, hending⟩ := exec_log h
  rw [newEvents_eq htrace] at he
  obtain ⟨hop, pre, rfl, herrors, hrefusal⟩ := hending.of_error (errorRaised_mem_logOf he)
  refine ⟨hop, .opStart (.op i) :: ix.flatMap (Interaction.events s.cfg.echoPolicy) ++ pre, ?_, ?_, ?_⟩
  · simp [htrace, logOf]
  · rw [List.cons_append, ← List.singleton_append, errorsIn_append, errorsIn_append, interactions_errors, herrors]
    rfl
  · rw [List.any_append, List.any_cons, interactions_refusal, hrefusal]
    rfl

/-- The lifecycle state an error leaves; an operation that raised one was accepted (10_state.md R25; 60_exceptions.md
R360). -/
theorem exec_lifeAfterError (h : exec i s = .next t) (hop : e.op = i) (hlast : t.trace.getLast? = some (.opEnd (.err e))) :
    t.life = lifeAfterError s.life e := by
  subst hop
  have hacc : acceptedByR25 s.life e.op := by
    by_contra hacc
    cases (exec_refuses_wrongState hacc).symm.trans h
    simp at hlast
  rw [(exec_lifeAfter hacc h hlast).1]
  exact lifeAfter_err s.life e.op e.info

/-- Settles O13: the log ends with the one error, and the records take up what the log says. -/
theorem takingAnError : Obligations.TakingAnError := by
  intro i s t e h he
  obtain ⟨hop, ev, htrace, herrors, hrefusal⟩ := exec_raises h he
  obtain ⟨ev', hrecords⟩ := exec_records h
  obtain rfl : ev' = ev ++ [.errorRaised e, .opEnd (.err e)] :=
    List.append_cancel_left (hrecords.trace.symm.trans (by rw [htrace, List.append_assoc]))
  refine ⟨hop, ?_, ?_, ⟨ev, htrace, fun e' he' => ?_⟩, ?_⟩
  · rw [hrecords.faults, errorsIn_append, herrors]
    rfl
  · rw [hrecords.refused, List.any_append, hrefusal]
    simp [isRefusal]
  · have hmem : e' ∈ errorsIn ev := List.mem_filterMap.2 ⟨_, he', rfl⟩
    rw [herrors] at hmem
    cases hmem
  · rw [exec_lifeAfterError h hop (by simp [htrace]), lifeAfterError, hop]

end Sys2Proof.Machine
end

section
/-! SUPPORT. Where a body can raise a ConfigurationError, and the proof of ConfigurationErrorsNeverWrite
(60_exceptions.md R352; 41_register_fields.md R198; 44_packet_engine.md R311). -/

namespace Sys2Proof.Machine

/-! ### Where a ConfigurationError is raised -/

/-- Every ConfigurationError that the body raises in `t`, when it starts in `s`, has a kind with `R kind s t`. -/
def ConfigErrors {α : Type} (R : ErrorKind → State → State → Prop) (x : Op α) : Prop :=
  ∀ s e t, x s = .error (.err e) t → kindClass e.kind = .configurationError → R e.kind s t

/-- The body raises no ConfigurationError. -/
def NoConfigError {α : Type} (x : Op α) : Prop := ConfigErrors (fun _ _ _ => False) x

/-- The three payload kinds of `Transmit` (60_exceptions.md R352). -/
def IsPayloadKind (k : ErrorKind) : Prop :=
  k = .payloadTooLong ∨ k = .payloadLengthMismatch ∨ k = .unsupportedPacketLengthMode

/-- A payload kind, after reads alone. -/
def PayloadAfterReads (k : ErrorKind) (s t : State) : Prop := IsPayloadKind k ∧ ReadsTo s t

/-- After reads alone, and but for the payload kinds before anything is logged. -/
def Early (k : ErrorKind) (s t : State) : Prop := ReadsTo s t ∧ (¬IsPayloadKind k → t.trace = s.trace)

variable {α β : Type} {R R' : ErrorKind → State → State → Prop} {i : Instr} {s t : State}

theorem Early.refl (k : ErrorKind) (s : State) : Early k s s := ⟨.refl s, fun _ => rfl⟩

theorem PayloadAfterReads.early {k : ErrorKind} (h : PayloadAfterReads k s t) : Early k s t :=
  ⟨h.2, fun hk => absurd h.1 hk⟩

theorem ConfigErrors.mono {x : Op α} (hx : ConfigErrors R x) (hR : ∀ k s t, R k s t → R' k s t) : ConfigErrors R' x :=
  fun s e t h hclass => hR _ _ _ (hx s e t h hclass)

theorem NoConfigError.configErrors {x : Op α} (hx : NoConfigError x) : ConfigErrors R x :=
  hx.mono fun _ _ _ h => h.elim

/-- An error of a sequence is one of its first part, or one of its second part after the first has succeeded. -/
theorem ConfigErrors.bind {x : Op α} {f : α → Op β} (hx : ConfigErrors R x) (hf : ∀ a, ConfigErrors R' (f a))
    (hR : ∀ s a t, x s = .ok a t → ∀ k u, R' k t u → R k s u) : ConfigErrors R (x >>= f) := by
  intro s e u h hclass
  simp only [Bind.bind, EStateM.bind] at h
  cases hxs : x s with
  | ok a t => rw [hxs] at h; exact hR s a t hxs _ u (hf a t e u h hclass)
  | error e' t => rw [hxs] at h; cases h; exact hx s e u hxs hclass

/-- What raises no ConfigurationError may follow. -/
theorem ConfigErrors.bind_noConfigError {x : Op α} {f : α → Op β} (hx : ConfigErrors R x)
    (hf : ∀ a, NoConfigError (f a)) : ConfigErrors R (x >>= f) :=
  hx.bind hf fun _ _ _ _ _ _ h => h.elim

theorem NoConfigError.bind {x : Op α} {f : α → Op β} (hx : NoConfigError x) (hf : ∀ a, NoConfigError (f a)) :
    NoConfigError (x >>= f) :=
  hx.bind_noConfigError hf

/-! ### Bodies that raise none -/

theorem NoConfigError.pure (a : α) : NoConfigError (Pure.pure a : Op α) := fun _ _ _ h => nomatch h

theorem NoConfigError.raise {e : ErrorInfo} (he : kindClass e.kind ≠ .configurationError) :
    NoConfigError (raise e : Op α) := by
  rintro s e' t h hclass
  cases h
  exact he hclass

theorem noConfigError_getCfg : NoConfigError getCfg := fun _ _ _ h => nomatch h

theorem noConfigError_getLife : NoConfigError getLife := fun _ _ _ h => nomatch h

theorem noConfigError_setLife (l : Life) : NoConfigError (setLife l) := fun _ _ _ h => nomatch h

theorem noConfigError_warn (w : Warning) : NoConfigError (warn w) := fun _ _ _ h => nomatch h

theorem noConfigError_gpioWaitRising (tm : Timeout) : NoConfigError (gpioWaitRising tm) := fun _ _ _ h => nomatch h

/-- A check for an error of another class. -/
theorem noConfigError_require {p : Prop} [Decidable p] {e : ErrorInfo} (he : kindClass e.kind ≠ .configurationError) :
    NoConfigError (require p e) := by
  unfold require
  split
  · exact .pure ()
  · exact .raise he

/-- A check that holds. -/
theorem noConfigError_require_of {p : Prop} [Decidable p] (hp : p) (e : ErrorInfo) : NoConfigError (require p e) := by
  rw [require, if_pos hp]
  exact .pure ()

/-- The one error of a getter's body is LENGTH, a ProtocolError (41_register_fields.md R199). -/
theorem OnlyReads.noConfigError {x : Op α} (hx : OnlyReads x) : NoConfigError x := by
  intro s e t h hclass
  have hs := hx s
  rw [h] at hs
  rw [hs.2] at hclass
  cases hclass

theorem noConfigError_transact (tx : Bytes) (n : Nat) : NoConfigError (transact tx n) := by
  intro s e t h hclass
  unfold transact at h
  split_ifs at h <;> cases h
  cases hclass

theorem noConfigError_echoCheckFrom (p : EchoPolicy) (h lead : Byte) (i : Nat) (bs : Bytes) :
    NoConfigError (echoCheckFrom p h lead i bs) := by
  have hchecked : ∀ want, echoWant p lead = some want → NoConfigError (echoCheckFrom p h lead i bs) := by
    intro want hwant s e t hraise hclass
    rcases echoCheckFrom_want (h := h) hwant bs i s with ⟨-, he⟩ | ⟨k, -, -, -, he⟩ <;> cases he.symm.trans hraise
    cases hclass
  cases p with
  | advisory => exact fun s e t hraise => nomatch (echoCheckFrom_advisory h lead bs i s).symm.trans hraise
  | matchStatus | match0F => exact hchecked _ rfl

theorem noConfigError_strobeAt (a : Addr6) : NoConfigError (strobeAt a) :=
  (noConfigError_transact _ _).bind fun _ => .pure _

theorem noConfigError_writeBurst (a : Addr6) (v : Bytes) : NoConfigError (writeBurst a v) :=
  (noConfigError_transact _ _).bind fun _ => noConfigError_getCfg.bind fun _ => noConfigError_echoCheckFrom _ _ _ _ _

theorem noConfigError_readModifyWrite (a : Addr6) (f : Byte → Byte) : NoConfigError (readModifyWrite a f) :=
  (onlyReads_readSingle a).noConfigError.bind fun _ => noConfigError_writeBurst _ _

theorem noConfigError_fieldSet (f : Field) (v : Nat) : NoConfigError (fieldSet f v) := noConfigError_readModifyWrite _ _

theorem noConfigError_readStatus (r : StatusReg) : NoConfigError (readStatus r) :=
  (onlyReads_readStatusAt _).noConfigError

/-- The check for IDLE raises a StateError (60_exceptions.md R355). -/
theorem noConfigError_requireIdle {k : ErrorKind} (hk : kindClass k ≠ .configurationError) :
    NoConfigError (requireIdle k) :=
  (noConfigError_readStatus _).bind fun _ => noConfigError_require hk

/-- The identity check raises a DeviceIdentityError (60_exceptions.md R354). -/
theorem noConfigError_verifyIdentity : NoConfigError verifyIdentity := by
  have hpartnum : kindClass .partnum ≠ .configurationError := by decide
  have hversion : kindClass .version ≠ .configurationError := by decide
  exact noConfigError_getCfg.bind fun _ => (noConfigError_readStatus _).bind fun _ =>
    (noConfigError_require hpartnum).bind fun _ => (noConfigError_readStatus _).bind fun _ =>
      noConfigError_require hversion

/-- The arguments that `Open` itself gives to setters are in range (43_lifecycle.md R284). -/
theorem noConfigError_configureDefaults : NoConfigError configureDefaults := by
  have hindex : NoConfigError (setPAIndex 1) :=
    (noConfigError_require_of (by decide) _).bind fun _ => noConfigError_fieldSet _ _
  have hcalibration : NoConfigError (setCalibrationOnWake 0b01) :=
    (noConfigError_require_of (by decide) _).bind fun _ => noConfigError_fieldSet _ _
  exact (noConfigError_fieldSet _ _).bind fun _ => hindex.bind fun _ => (noConfigError_fieldSet _ _).bind fun _ =>
    hcalibration

theorem noConfigError_openBlock : NoConfigError openBlock :=
  (noConfigError_strobeAt _).bind fun _ => noConfigError_verifyIdentity.bind fun _ =>
    noConfigError_configureDefaults.bind fun _ => (noConfigError_requireIdle (by decide)).bind fun _ =>
      (noConfigError_setLife _).bind fun _ => .pure _

theorem noConfigError_asyncEndSequence : NoConfigError asyncEndSequence :=
  (noConfigError_strobeAt _).bind fun _ => noConfigError_fieldSet _ _

theorem noConfigError_closeBlock : NoConfigError closeBlock := by
  refine noConfigError_getLife.bind fun l => ?_
  cases l with
  | asyncTx => exact noConfigError_asyncEndSequence.bind fun _ => (noConfigError_setLife _).bind fun _ => .pure _
  | closed => exact .pure _
  | ready | faulted => exact (noConfigError_setLife _).bind fun _ => .pure _

theorem noConfigError_drainPacket : NoConfigError drainPacket := by
  refine ((noConfigError_readStatus _).bind fun _ => .pure _).bind fun n => ?_
  split_ifs
  · exact .pure _
  · exact .raise nofun
  · exact (onlyReads_readBurst _ _).noConfigError.bind fun _ => .pure _

theorem noConfigError_receive (tm : Timeout) : NoConfigError (receive tm) := by
  refine (noConfigError_strobeAt _).bind fun _ => (noConfigError_gpioWaitRising tm).bind fun edge => ?_
  split
  · exact noConfigError_drainPacket
  · exact (noConfigError_strobeAt _).bind fun _ => .pure _

/-! ### Bodies that check first -/

/-- A check is made where it stands (41_register_fields.md R198). -/
theorem early_raise (e : ErrorInfo) : ConfigErrors Early (raise e : Op α) := by
  intro s e' t h _
  cases h
  exact .refl _ _

theorem early_require (p : Prop) [Decidable p] (e : ErrorInfo) : ConfigErrors Early (require p e) := by
  unfold require
  split
  · exact (NoConfigError.pure ()).configErrors
  · exact early_raise e

/-- After a check that holds, a later check is as early. -/
theorem early_require_bind {p : Prop} [Decidable p] {e : ErrorInfo} {f : Unit → Op β}
    (hf : ∀ a, ConfigErrors Early (f a)) : ConfigErrors Early (require p e >>= f) := by
  refine (early_require p e).bind hf fun s a t h k u hu => ?_
  unfold require at h
  split at h <;> cases h
  exact hu

/-- Looking at the configuration logs nothing. -/
theorem early_getCfg_bind {f : Config → Op β} (hf : ∀ c, ConfigErrors Early (f c)) :
    ConfigErrors Early (getCfg >>= f) := by
  refine noConfigError_getCfg.configErrors.bind hf fun s a t h k u hu => ?_
  cases h
  exact hu

theorem early_setPreambleLength (nbytes : Int) : ConfigErrors Early (setPreambleLength nbytes) := by
  unfold setPreambleLength
  split
  · exact (noConfigError_fieldSet _ _).configErrors
  · exact early_raise _

theorem early_setSymbolRateFP (m e : Int) : ConfigErrors Early (setSymbolRateFP m e) :=
  early_require_bind fun _ => (early_require _ _).bind_noConfigError fun _ =>
    (onlyReads_readSingle _).noConfigError.bind fun _ => noConfigError_writeBurst _ _

theorem early_setFilterBandwidthFP (m e : Int) : ConfigErrors Early (setFilterBandwidthFP m e) :=
  early_require_bind fun _ => (early_require _ _).bind_noConfigError fun _ => noConfigError_readModifyWrite _ _

theorem early_setSymbolRateBaud (baud : Baud) : ConfigErrors Early (setSymbolRateBaud baud) :=
  early_getCfg_bind fun _ => early_require_bind fun _ => early_require_bind fun _ => early_setSymbolRateFP _ _

theorem early_setBaseFrequencyHz (hz : Hz) : ConfigErrors Early (setBaseFrequencyHz hz) := by
  refine early_getCfg_bind fun c => (early_require _ _).bind_noConfigError fun _ => ?_
  split
  · exact (noConfigError_warn _).bind fun _ => noConfigError_writeBurst _ _
  · exact noConfigError_writeBurst _ _

theorem early_setOutputPower (values : List Int) : ConfigErrors Early (setOutputPower values) := by
  refine early_require_bind fun _ => ?_
  split
  · exact early_raise _
  · exact ((noConfigError_writeBurst _ _).bind fun _ => noConfigError_fieldSet _ _).configErrors

/-! ### Transmit -/

/-- Reads may come before a payload error (44_packet_engine.md R311). -/
theorem OnlyReads.payload_bind {x : Op α} {f : α → Op β} (hx : OnlyReads x)
    (hf : ∀ a, ConfigErrors PayloadAfterReads (f a)) : ConfigErrors PayloadAfterReads (x >>= f) := by
  refine hx.noConfigError.configErrors.bind hf fun s a t h k u hu => ⟨hu.1, ?_⟩
  have hs := hx s
  rw [h] at hs
  exact ReadsTo.trans hs hu.2

theorem txFrame_error_kind {mode : Reading PacketLengthMode} {max : Byte} {payload : Bytes} {e : ErrorInfo}
    (h : txFrame mode max payload = .error e) : IsPayloadKind e.kind := by
  unfold txFrame at h
  split at h
  · split_ifs at h
    cases h
    exact .inl rfl
  · split_ifs at h
    cases h
    exact .inr (.inl rfl)
  · cases h
    exact .inr (.inr rfl)

theorem payload_txFrame (mode : Reading PacketLengthMode) (max : Byte) (payload : Bytes) :
    ConfigErrors PayloadAfterReads (orRaise (txFrame mode max payload)) := by
  intro s e t h _
  cases hframe : txFrame mode max payload with
  | ok frame => rw [hframe] at h; cases h
  | error e' => rw [hframe] at h; cases h; exact ⟨txFrame_error_kind hframe, .refl _⟩

/-- `Transmit` checks for an empty payload at once, and the payload's frame after reading the mode and PKTLEN
(44_packet_engine.md R311). -/
theorem early_transmit (payload : Bytes) : ConfigErrors Early (transmit payload) := by
  have hmode : OnlyReads getPacketLengthMode := (onlyReads_fieldGet _).bind fun _ => .pure _
  have hmax : OnlyReads getPacketLength := onlyReads_readSingle _
  refine early_require_bind fun _ => ConfigErrors.mono ?_ fun _ _ _ => PayloadAfterReads.early
  exact hmode.payload_bind fun _ => hmax.payload_bind fun _ => (payload_txFrame _ _ _).bind_noConfigError fun _ =>
    (noConfigError_requireIdle (by decide)).bind fun _ => (noConfigError_strobeAt _).bind fun _ =>
      (noConfigError_writeBurst _ _).bind fun _ => noConfigError_strobeAt _

/-! ### Host operations -/

/-- The operation is the envelope of a body whose ConfigurationErrors come early. -/
def ChecksEarly (i : Instr) : Prop := ∃ x, (∀ s, exec i s = runOp i x s) ∧ ConfigErrors Early x

theorem ConfigErrors.checksEarly {x : Op Unit} (hx : ConfigErrors Early x)
    (hexec : ∀ s, exec i s = runOp i (do x; Pure.pure .unit) s) : ChecksEarly i :=
  ⟨_, hexec, hx.bind_noConfigError fun _ => .pure _⟩

theorem NoConfigError.checksEarly {x : Op Unit} (hx : NoConfigError x)
    (hexec : ∀ s, exec i s = runOp i (do x; Pure.pure .unit) s) : ChecksEarly i :=
  hx.configErrors.checksEarly hexec

/-- Every operation that is no getter checks early. -/
theorem exec_checksEarly (hi : isGetter i = false) : ChecksEarly i := by
  cases i with
  | stb | resetOp | stbSres | stbSfstxon | stbSxoff | stbScal | stbSrx | stbStx | stbSidle | stbSwor | stbSpwd | stbSfrx
  | stbSftx | stbSworrst | stbSnop => exact (noConfigError_strobeAt _).checksEarly fun _ => rfl
  | wrb | wrbPatable | wrbTxFifo => exact (noConfigError_writeBurst _ _).checksEarly fun _ => rfl
  | setFrequencyWord | setSyncWord | setPacketLength =>
      exact ((early_require _ _).bind_noConfigError fun _ => noConfigError_writeBurst _ _).checksEarly fun _ => rfl
  | setPAIndex | setCalibrationOnWake =>
      exact ((early_require _ _).bind_noConfigError fun _ => noConfigError_fieldSet _ _).checksEarly fun _ => rfl
  | setSymbolRateFP m e => exact (early_setSymbolRateFP m e).checksEarly fun _ => rfl
  | setFilterBandwidthFP m e => exact (early_setFilterBandwidthFP m e).checksEarly fun _ => rfl
  | setSyncMode => exact (noConfigError_readModifyWrite _ _).checksEarly fun _ => rfl
  | setModulationFormat | setPacketLengthMode | setTransceiveMode | enableChecksum | disableChecksum
  | enableDataWhitening | disableDataWhitening | enableManchester | disableManchester =>
      exact (noConfigError_fieldSet _ _).checksEarly fun _ => rfl
  | setPreambleLength nbytes => exact (early_setPreambleLength nbytes).checksEarly fun _ => rfl
  | setOutputPower values => exact (early_setOutputPower values).checksEarly fun _ => rfl
  | setBaseFrequencyHz hz => exact (early_setBaseFrequencyHz hz).checksEarly fun _ => rfl
  | setSymbolRateBaud baud => exact (early_setSymbolRateBaud baud).checksEarly fun _ => rfl
  | transmit payload => exact (early_transmit payload).checksEarly fun _ => rfl
  | openOp => exact ⟨_, fun _ => rfl, noConfigError_openBlock.configErrors⟩
  | closeOp => exact ⟨_, fun _ => rfl, noConfigError_closeBlock.configErrors⟩
  | receive tm => exact ⟨_, fun _ => rfl, (noConfigError_receive tm).configErrors⟩
  | asyncTxBegin =>
      exact ⟨_, fun _ => rfl, ((noConfigError_fieldSet _ _).bind fun _ => (noConfigError_strobeAt _).bind fun _ =>
        (noConfigError_setLife _).bind fun _ => .pure _).configErrors⟩
  | asyncTxEnd =>
      exact ⟨_, fun _ => rfl, (noConfigError_asyncEndSequence.bind fun _ =>
        (noConfigError_setLife _).bind fun _ => .pure _).configErrors⟩
  | _ => cases hi

/-- An operation whose log ends with an error took the one its body raised. -/
theorem runOp_takes_error {x : Op Value} {e : ErrorRecord} (h : runOp i x s = .next t)
    (hlast : t.trace.getLast? = some (.opEnd (.err e))) :
    ∃ u, x (s.started i) = .error (.err e.info) u ∧ t = u.takeError e := by
  unfold runOp at h
  split at h <;> cases h
  · cases hx : x (s.started i) with
    | ok v u => rw [hx] at hlast; simp [finish, State.emit] at hlast
    | error a u =>
        rw [hx] at hlast
        cases a with
        | err e' =>
            obtain rfl : ⟨i, e'⟩ = e := by simpa [finish] using hlast
            exact ⟨u, rfl, rfl⟩
        | refuse r => simp [finish] at hlast
  · simp at hlast

/-- What an operation logs around its body has no transfer. -/
theorem framesIn_newEvents_takeError {ev : List Event} {u : State} (e : ErrorRecord)
    (h : u.trace = (s.started i).trace ++ ev) : framesIn (newEvents s (u.takeError e)) = framesIn ev := by
  rw [newEvents_eq (ev := .opStart (.op i) :: ev ++ [.errorRaised e, .opEnd (.err e)]) (by simp [h]), framesIn_append]
  exact List.append_nil _

/-- Settles O18: a getter raises no ConfigurationError, and every other operation raises it early. -/
theorem configurationErrorsNeverWrite : Obligations.ConfigurationErrorsNeverWrite := by
  intro i s t e h he hclass
  have hi : isGetter i = false := Bool.eq_false_iff.2 fun hgetter => by
    rw [(gettersOnlyRead i s t hgetter h).2.2 e he] at hclass
    cases hclass
  obtain ⟨-, ev, htrace, -, -⟩ := exec_raises h he
  obtain ⟨x, hexec, hx⟩ := exec_checksEarly hi
  obtain ⟨u, hraise, rfl⟩ := runOp_takes_error (e := e) ((hexec s).symm.trans h) (by simp [htrace])
  obtain ⟨⟨ev, hreads, hread⟩, hsilent⟩ := hx _ _ _ hraise hclass
  refine ⟨fun tx htx => ?_, fun hlong hmismatch hmode => ?_⟩
  · rw [framesIn_newEvents_takeError e hreads] at htx
    obtain ⟨rx, hrx⟩ := mem_framesIn htx
    exact hread _ hrx
  · have hkind : ¬IsPayloadKind e.info.kind := by
      rintro (hk | hk | hk)
      · exact hlong hk
      · exact hmismatch hk
      · exact hmode hk
    exact framesIn_newEvents_takeError (ev := []) e (by rw [hsilent hkind, List.append_nil])

end Sys2Proof.Machine
end

section
/-! SUPPORT. The waits of an operation, and the proof of OnlyReceiveWaits (60_exceptions.md R370, R372; 44_packet_engine.md
R320). -/

namespace Sys2Proof.Machine

/-! ### Waits of a log -/

/-- A wait for an edge (10_state.md R24). -/
def Event.isWait : Event → Bool
  | .gpioWait _ _ => true
  | _ => false

/-- From `s` to `t` at most `n` waits are logged. -/
def WaitsTo (n : Nat) (s t : State) : Prop := ∃ ev, t.trace = s.trace ++ ev ∧ ev.countP Event.isWait ≤ n

/-- The state in which a body ends, with a result or early. -/
def endState {α : Type} : EStateM.Result Abort State α → State
  | .ok _ t => t
  | .error _ t => t

/-- From every state the body waits at most `n` times. -/
def WaitsAtMost {α : Type} (n : Nat) (x : Op α) : Prop := ∀ s, WaitsTo n s (endState (x s))

variable {α β : Type} {P : Interaction → Prop} {i : Instr} {s t u : State} {n m : Nat}

theorem Event.eq_gpioWait_of_isWait {ev : Event} (h : ev.isWait = true) : ∃ tm r, ev = .gpioWait tm r := by
  cases ev with
  | gpioWait tm r => exact ⟨tm, r, rfl⟩
  | _ => cases h

theorem Interaction.eq_gpio_of_mem_events {p : EchoPolicy} {x : Interaction} {tm : Timeout} {r : Bool}
    (h : Event.gpioWait tm r ∈ x.events p) : x = .gpio tm r := by
  cases x with
  | spi tx rx =>
      rcases List.mem_append.1 h with h | h
      · simp at h
      · obtain ⟨w, hw⟩ := mem_echoWarnings h
        cases hw
  | gpio => cases List.mem_singleton.1 h; rfl
  | note => cases List.mem_singleton.1 h

theorem WaitsTo.trans (h : WaitsTo n s t) (h' : WaitsTo m t u) : WaitsTo (n + m) s u := by
  obtain ⟨ev, ht, hev⟩ := h
  obtain ⟨ev', hu, hev'⟩ := h'
  exact ⟨ev ++ ev', by rw [hu, ht, List.append_assoc], by rw [List.countP_append]; exact Nat.add_le_add hev hev'⟩

theorem WaitsTo.mono (h : WaitsTo n s t) (hle : n ≤ m) : WaitsTo m s t := by
  obtain ⟨ev, ht, hev⟩ := h
  exact ⟨ev, ht, hev.trans hle⟩

theorem WaitsAtMost.bind {x : Op α} {f : α → Op β} (hx : WaitsAtMost n x) (hf : ∀ a, WaitsAtMost m (f a)) :
    WaitsAtMost (n + m) (x >>= f) := by
  intro s
  have hs := hx s
  simp only [Bind.bind, EStateM.bind]
  cases hxs : x s with
  | ok a t => rw [hxs] at hs; exact WaitsTo.trans hs (hf a t)
  | error e t => rw [hxs] at hs; exact WaitsTo.mono hs (Nat.le_add_right n m)

theorem waitsAtMost_gpioWaitRising (tm : Timeout) : WaitsAtMost 1 (gpioWaitRising tm) := fun _ => ⟨[_], rfl, le_rfl⟩

/-! ### Bodies of transfers alone -/

/-- A transfer, and no wait or warning. -/
def Interaction.isTransfer : Interaction → Prop
  | .spi _ _ => True
  | .gpio _ _ | .note _ => False

theorem Path.noWaits (h : Path Interaction.isTransfer s t) : WaitsTo 0 s t := by
  obtain ⟨ix, htrace, htransfer, -⟩ := h.trace_eq
  refine ⟨_, htrace, (List.countP_eq_zero.2 fun ev hev hwait => ?_).le⟩
  obtain ⟨tm, r, rfl⟩ := Event.eq_gpioWait_of_isWait hwait
  obtain ⟨x, hx, hevx⟩ := List.mem_flatMap.1 hev
  cases Interaction.eq_gpio_of_mem_events hevx
  exact htransfer _ hx

theorem Stops.noWaits {e : ErrorInfo} (h : Stops P e s t) : WaitsTo 0 s t := by
  cases h with
  | check => exact ⟨[], by simp, by simp⟩
  | length tx => exact ⟨_, (growsBy_xferred s tx).trace, le_rfl⟩
  | echo tx => exact ⟨_, (growsBy_transacted s tx).trace, le_rfl⟩

/-- A body whose interactions are transfers does not wait. -/
theorem Follows.noWaits {x : Op α} (h : Follows Interaction.isTransfer x) : WaitsAtMost 0 x := by
  intro s
  have hs := h s
  cases hxs : x s with
  | ok a t => rw [hxs] at hs; exact Path.noWaits hs
  | error e t =>
      rw [hxs] at hs
      cases e with
      | err e =>
          obtain ⟨u, hpath, hstop⟩ := hs
          exact hpath.noWaits.trans hstop.noWaits
      | refuse r => exact hs.1.noWaits

/-! ### Receive -/

theorem follows_drainPacket (hp : ∀ tx rx, P (.spi tx rx)) : Follows P drainPacket := by
  refine ((follows_readStatus hp).bind fun _ => .pure _).bind fun k => ?_
  split_ifs
  · exact .pure _
  · exact .raise (by simp) (by simp)
  · exact (follows_readBurst (hp _)).bind fun _ => .pure _

/-- `Receive` waits once, between its strobe and the rest (44_packet_engine.md R320). -/
theorem receive_waitsAtMost (tm : Timeout) : WaitsAtMost 1 (receive tm) := by
  have hp : ∀ tx rx, Interaction.isTransfer (.spi tx rx) := fun _ _ => trivial
  have htail : ∀ edge : Bool, WaitsAtMost 0 (if edge then drainPacket else do strobe .sidle; pure .noPacket) := by
    intro edge
    split
    · exact (follows_drainPacket hp).noWaits
    · exact ((follows_strobe hp).bind fun _ => .pure _).noWaits
  exact (follows_strobe hp).noWaits.bind fun _ => (waitsAtMost_gpioWaitRising tm).bind htail

/-- The envelope waits no more than the body (10_state.md R24). -/
theorem WaitsAtMost.runOp {x : Op Value} (hx : WaitsAtMost n x) (h : runOp i x s = .next t) : WaitsTo n s t := by
  have hstart : WaitsTo 0 s (s.started i) := ⟨_, rfl, le_rfl⟩
  have hfinish : ∀ r, WaitsTo 0 (endState r) (finish i r)
    | .ok _ _ => ⟨_, rfl, le_rfl⟩
    | .error (.err _) _ => ⟨_, rfl, le_rfl⟩
    | .error (.refuse _) _ => ⟨_, rfl, le_rfl⟩
  unfold Machine.runOp at h
  split at h <;> cases h
  · exact Nat.zero_add n ▸ hstart.trans ((hx _).trans (hfinish _))
  · exact (hstart.trans (m := 0) ⟨_, rfl, le_rfl⟩).mono (Nat.zero_le n)

/-! ### The statement -/

/-- A wait of a log is one the operation may make: the endings hold none. -/
theorem gpioWait_mem_newEvents {tm : Timeout} {r : Bool} (h : exec i s = .next t)
    (hw : Event.gpioWait tm r ∈ newEvents s t) : i = .receive tm := by
  obtain ⟨ix, ending, htrace, hallowed, -, hending⟩ := exec_log h
  rw [newEvents_eq htrace] at hw
  have hix : Event.gpioWait tm r ∈ ix.flatMap (Interaction.events s.cfg.echoPolicy) := by
    refine (List.mem_append.1 ((List.mem_cons.1 hw).resolve_left (by simp))).resolve_right fun hmem => ?_
    cases hending <;> simp [errorEvents] at hmem
  obtain ⟨x, hx, hev⟩ := List.mem_flatMap.1 hix
  cases Interaction.eq_gpio_of_mem_events hev
  exact hallowed _ hx

/-- A wait of a log with at most one is the only one. -/
theorem only_wait {ev : List Event} {tm : Timeout} {r : Bool} (hmem : Event.gpioWait tm r ∈ ev)
    (hcount : ev.countP Event.isWait ≤ 1) :
    ∃ pre post, ev = pre ++ .gpioWait tm r :: post ∧ ∀ tm' r', Event.gpioWait tm' r' ∉ pre ++ post := by
  obtain ⟨pre, post, rfl⟩ := List.append_of_mem hmem
  have hnone : (pre ++ post).countP Event.isWait = 0 := by
    simp only [List.countP_append, List.countP_cons, Event.isWait, if_true] at hcount ⊢
    omega
  exact ⟨pre, post, rfl, fun _ _ hother => List.countP_eq_zero.1 hnone _ hother rfl⟩

/-- Settles O22: only `Receive` may wait, and its body waits once. -/
theorem onlyReceiveWaits : Obligations.OnlyReceiveWaits := by
  intro i s t tm r h hw
  obtain rfl := gpioWait_mem_newEvents h hw
  obtain ⟨ev, htrace, hcount⟩ := (receive_waitsAtMost tm).runOp h
  rw [newEvents_eq htrace] at hw ⊢
  exact ⟨rfl, only_wait hw hcount⟩

end Sys2Proof.Machine
end
